-- ==== Sys2Proof/Word.lean ====
section
/-! DEFINITION. The word types of lzw_policy_controller: one name per register or port width of the spec. -/
namespace Sys2Proof

/-- A 32-bit command word (30_encoding.md R49), also the width of FCMD (10_state.md R23). -/
abbrev Word := BitVec 32

/-- The ratio-tracker totals, `TOTAL_BITS` = 64 bits (00_scope.md R4, 10_state.md R18), also the width of `resp_data`. -/
abbrev Total := BitVec 64

/-- The codeword width register, 5 bits (10_state.md R15), also the width of `resp_w`. -/
abbrev Width := BitVec 5

/-- The code counter, `WMAX + 1` = 17 bits (10_state.md R17). -/
abbrev Counter := BitVec 17

/-- The port `resp_code`, `WMAX` = 16 bits (30_encoding.md R54). -/
abbrev Code := BitVec 16

/-- The ACCOUNT length operand, `LEN_BITS` = 28 bits (00_scope.md R4, 30_encoding.md R51). -/
abbrev Len := BitVec 28

end Sys2Proof
end

