-- ==== Sys2Proof/Config.lean ====
section
/-! DEFINITION. What an instance of the block is built with (00_scope.md R4, R5), and the two OPEN parameters of the host's wire (R94, 92_eei_decisions.md D6, D40). -/
namespace Sys2Proof.Config

/-- The named parameters of 00_scope.md R4 from which every other one is derived. -/
structure Params where
  /-- Alphabet size; codes `0 .. R-1` are the single-symbol codes. -/
  r : Nat
  /-- Initial codeword width. -/
  w0 : Nat
  /-- Maximum codeword width. -/
  wmax : Nat
  /-- Bits represented per symbol. -/
  symbolBits : Nat
  /-- Numerator of the Monitor threshold. -/
  thrNum : Nat
  /-- Denominator of the Monitor threshold. -/
  thrDen : Nat
  deriving DecidableEq, Repr

/-- `SENTINEL` = `R`: the end-of-stream code, never assigned (00_scope.md R4). -/
def Params.sentinel (p : Params) : Nat := p.r

/-- `FIRST_CODE` = `R + 1`: the first assignable code (00_scope.md R4). -/
def Params.firstCode (p : Params) : Nat := p.r + 1

/-- `L0` = `2^W0`: the initial capacity (00_scope.md R4). -/
def Params.l0 (p : Params) : Nat := 2 ^ p.w0

/-- `LMAX` = `2^WMAX`: the largest capacity (00_scope.md R4). -/
def Params.lmax (p : Params) : Nat := 2 ^ p.wmax

/-- The legal parameter values of 00_scope.md R5. -/
abbrev Params.Legal (p : Params) : Prop :=
  1 ≤ p.r ∧ p.r + 1 < 2 ^ p.w0 ∧ 1 ≤ p.w0 ∧ p.w0 ≤ p.wmax ∧ p.wmax ≤ 31 ∧
    1 ≤ p.symbolBits ∧ 1 ≤ p.thrNum ∧ 1 ≤ p.thrDen

/-- The values THIS hardware takes (00_scope.md R4). -/
def hw : Params :=
  { r := 256, w0 := 9, wmax := 16, symbolBits := 8, thrNum := 11, thrDen := 10 }

/-- `TOTAL_BITS` (00_scope.md R4): the totals are 64 bits wide; `Total` is their type. -/
def totalBits : Nat := 64

/-- `LEN_BITS` (00_scope.md R4): the ACCOUNT length is 28 bits wide; `Len` is its type. -/
def lenBits : Nat := 28

/-- The wire mode tags `TAG_RESET` and `TAG_MONITOR`, OPEN host parameters: two distinct 8-bit values
(45_host_sequences.md R94, 92_eei_decisions.md D6). The block never sees them. -/
structure ModeTags where
  reset : BitVec 8
  monitor : BitVec 8
  distinct : reset ≠ monitor
  deriving DecidableEq, Repr

/-- `WIRE_BIT_ORDER`, an OPEN host parameter: the order in which a codeword's bits enter the byte stream
(45_host_sequences.md R95, 92_eei_decisions.md D40). The block does not depend on it (20_memory.md R40). -/
inductive WireBitOrder where
  | msbFirst
  | lsbFirst
  deriving DecidableEq, Repr

end Sys2Proof.Config
end

