-- ==== Sys2Proof/Syntax.lean ====
section
/-! DEFINITION. The command set LZWPC revision 1 as syntax: one constructor per row of spec/opcode_table.json (30_encoding.md R52).
A constructor carries EVERY bit of the word below the opcode, the reserved bits too, because the opcode alone selects the row and a
word with reserved bits set still selects it and then faults (R52, R53). Which terms are legal commands is WellFormed's business. -/
namespace Sys2Proof

/-- The six opcodes of 30_encoding.md R52. -/
inductive Op where
  | nop | start | account | extend | peek | read
  deriving DecidableEq, Repr

/-- The four formats of 30_encoding.md R50. -/
inductive Format where
  /-- No operand. -/
  | f0
  /-- Mode operand. -/
  | fm
  /-- Length operand. -/
  | fl
  /-- Register operand. -/
  | fr
  deriving DecidableEq, Repr

/-- A command. Its operands are the fields of its format (30_encoding.md R50), most significant first. -/
inductive Instr where
  /-- NOP, format F0 (40_control.md R63). -/
  | nop (rsvd : BitVec 28)
  /-- START, format FM (40_control.md R64). -/
  | start (rsvd : BitVec 26) (mode : BitVec 2)
  /-- ACCOUNT, format FL (41_accounting.md R68). -/
  | account (len : Len)
  /-- EXTEND, format F0 (42_policy.md R76). -/
  | extend (rsvd : BitVec 28)
  /-- PEEK, format F0 (42_policy.md R77). -/
  | peek (rsvd : BitVec 28)
  /-- READ, format FR (40_control.md R66). -/
  | read (rsvd : BitVec 24) (reg : BitVec 4)
  deriving DecidableEq, Repr

/-- The opcode of a command. -/
def Instr.op : Instr → Op
  | .nop _ => .nop
  | .start _ _ => .start
  | .account _ => .account
  | .extend _ => .extend
  | .peek _ => .peek
  | .read _ _ => .read

end Sys2Proof
end

