-- ==== Sys2Proof/WellFormed.lean ====
section
/-! DEFINITION. Which commands are legal: the operand rules of 30_encoding.md R50, R51 and R53, none of which looks at the state. -/
namespace Sys2Proof

/-- Every reserved bit of the format is 0 (30_encoding.md R50); format FL has none. -/
def Instr.reservedClear : Instr → Bool
  | .nop rsvd => rsvd == 0
  | .start rsvd _ => rsvd == 0
  | .account _ => true
  | .extend rsvd => rsvd == 0
  | .peek rsvd => rsvd == 0
  | .read rsvd _ => rsvd == 0

/-- MODE is 0 (Reset) or 1 (Monitor) (30_encoding.md R51). -/
def Instr.modeLegal : Instr → Bool
  | .nop _ => true
  | .start _ mode => mode.toNat < 2
  | .account _ => true
  | .extend _ => true
  | .peek _ => true
  | .read _ _ => true

/-- REG is a register number of 10_state.md R33 (30_encoding.md R51). -/
def Instr.regLegal : Instr → Bool
  | .nop _ => true
  | .start _ _ => true
  | .account _ => true
  | .extend _ => true
  | .peek _ => true
  | .read _ reg => reg.toNat < 0xB

/-- LEN is at least 1 (30_encoding.md R51). -/
def Instr.lenLegal : Instr → Bool
  | .nop _ => true
  | .start _ _ => true
  | .account len => len != 0
  | .extend _ => true
  | .peek _ => true
  | .read _ _ => true

/-- A legal command, one of the "fully legal words" of 30_encoding.md R52: case 1 of R53. -/
def Instr.wellFormed (i : Instr) : Bool :=
  i.reservedClear && i.modeLegal && i.regLegal && i.lenLegal

/-- `wellFormed` as a proposition. -/
abbrev Instr.WellFormed (i : Instr) : Prop := i.wellFormed = true

end Sys2Proof
end

