-- ==== Sys2Proof/Decode.lean ====
section
/-! DEFINITION. Decoding of command words, total on all 2^32 of them and rejecting by name, and the encoder, both from the tables of
30_encoding.md R50 to R52. The block fetches nothing and moves no bytes (20_memory.md R40): a word is one parallel value. -/
namespace Sys2Proof

/-- Why a word is no command: opcodes 0x6 to 0xF select no row (30_encoding.md R52, R53 case 2). -/
inductive DecodeError where
  | illegalOp (op : BitVec 4)
  deriving DecidableEq, Repr

/-- `cmd[31:28]` (30_encoding.md R49). -/
def opField (cmd : Word) : BitVec 4 := cmd.extractLsb' 28 4

/-- The opcode numbers of 30_encoding.md R52. -/
def Op.bits : Op → BitVec 4
  | .nop => 0x0
  | .start => 0x1
  | .account => 0x2
  | .extend => 0x3
  | .peek => 0x4
  | .read => 0x5

/-- The formats of the six commands (30_encoding.md R50, R52). -/
def Op.format : Op → Format
  | .nop => .f0
  | .start => .fm
  | .account => .fl
  | .extend => .f0
  | .peek => .f0
  | .read => .fr

/-- The reserved-bit masks of 30_encoding.md R50. -/
def Format.rsvdMask : Format → Word
  | .f0 => 0x0FFFFFFF
  | .fm => 0x0FFFFFFC
  | .fl => 0x00000000
  | .fr => 0x0FFFFFF0

/-- The decoder (30_encoding.md R50 to R52): the opcode field selects the row, the row's format says which field is which operand.
It never looks at the block's state (R59). -/
def decode (cmd : Word) : Except DecodeError Instr :=
  if opField cmd = 0x0 then .ok (.nop (cmd.extractLsb' 0 28))
  else if opField cmd = 0x1 then .ok (.start (cmd.extractLsb' 2 26) (cmd.extractLsb' 0 2))
  else if opField cmd = 0x2 then .ok (.account (cmd.extractLsb' 0 28))
  else if opField cmd = 0x3 then .ok (.extend (cmd.extractLsb' 0 28))
  else if opField cmd = 0x4 then .ok (.peek (cmd.extractLsb' 0 28))
  else if opField cmd = 0x5 then .ok (.read (cmd.extractLsb' 4 24) (cmd.extractLsb' 0 4))
  else .error (.illegalOp (opField cmd))

/-- The encoder (30_encoding.md R50, R52): the opcode in bits 31:28, then the fields of the format, most significant first. -/
def encode : Instr → Word
  | .nop rsvd => 0x0#4 ++ rsvd
  | .start rsvd mode => 0x1#4 ++ (rsvd ++ mode)
  | .account len => 0x2#4 ++ len
  | .extend rsvd => 0x3#4 ++ rsvd
  | .peek rsvd => 0x4#4 ++ rsvd
  | .read rsvd reg => 0x5#4 ++ (rsvd ++ reg)

/-- What the decoder reads from an instruction of `nbits` bits, numbered as spec/opcode_table.json numbers them. Every command is
exactly 32 bits (30_encoding.md R49, R59): the bits above `nbits` are 0, and a number that needs more than 32 bits is no command. -/
def decodeTableWord (nbits w : Nat) : Option Instr :=
  if w % 2 ^ nbits < 2 ^ 32 then
    match decode (BitVec.ofNat 32 (w % 2 ^ nbits)) with
    | .ok i => some i
    | .error _ => none
  else none

end Sys2Proof
end

