-- ==== Sys2Proof/Machine/State.lean ====
section
/-! DEFINITION. The state of one instance of lzw_policy_controller: the architectural registers of 10_state.md R13 to R23, the
one-response-pending condition of R36, and the port inputs the host and the platform drive (30_encoding.md R54). Plain data. -/
namespace Sys2Proof.Machine

/-- `STATE`, the state register of `lzw_width_state_machine` (10_state.md R13); its encodings 5 to 7 are never held. -/
inductive Fsm where
  /-- No run started since hardware reset. -/
  | sIdle
  /-- Inserting new codes under the current W and L. -/
  | sGrowing
  /-- W = WMAX and NEXT = L, awaiting a reclamation decision. -/
  | sAtcap
  /-- Fresh-alphabet state, just rebuilt. -/
  | sReset
  /-- A fault was taken. -/
  | sFaulted
  deriving DecidableEq, Repr

/-- `MODE`, the reclamation mode (10_state.md R14). -/
inductive Mode where
  | resetMode
  | monitorMode
  deriving DecidableEq, Repr

/-- The fault causes of `FCAUSE` (60_exceptions.md R97); codes 8 to 15 are never recorded. -/
inductive Cause where
  | fNone | fIllegalOp | fRsvdBits | fBadMode | fBadReg | fZeroLen | fNotStarted | fTotalOvf
  deriving DecidableEq, Repr

/-- The outcome codes of `resp_outcome` (30_encoding.md R56); codes 6 and 7 are never produced. -/
inductive PolicyOutcome where
  | oNone | oAssigned | oGrew | oReset | oNoopBaseline | oNoopKeep
  deriving DecidableEq, Repr

/-- The response status codes of `resp_status` (30_encoding.md R57); code 3 is never produced. -/
inductive RespStatus where
  | rsOk | rsFault | rsRejected
  deriving DecidableEq, Repr

/-- The single response of a command (30_encoding.md R55); `code = none` is `resp_code_valid = 0`. -/
structure Response where
  status : RespStatus
  outcome : PolicyOutcome
  code : Option Code
  w : Width
  data : Total
  deriving DecidableEq, Repr

/-- What the input ports of 30_encoding.md R54 hold at one rising edge of `clk`. -/
structure PortInput where
  rst : Bool
  cmdValid : Bool
  cmdWord : Word
  respReady : Bool
  deriving DecidableEq, Repr

/-- The architectural registers (10_state.md section 1). `L` is not stored: it reads `2^W` (R16). -/
structure Regs where
  /-- STATE (R13). -/
  fsm : Fsm
  /-- MODE (R14). -/
  mode : Mode
  /-- W, the codeword width (R15). -/
  w : Width
  /-- NEXT, the next assignable code (R17). -/
  next : Counter
  /-- EMIT_BITS (R18). -/
  emitBits : Total
  /-- REP_BITS (R19). -/
  repBits : Total
  /-- BASE_VALID (R20). -/
  baseValid : Bool
  /-- BASE_EMIT (R21). -/
  baseEmit : Total
  /-- BASE_REP (R21). -/
  baseRep : Total
  /-- FCAUSE (R22). -/
  fcause : Cause
  /-- FCMD (R23). -/
  fcmd : Word
  deriving DecidableEq, Repr

/-- One instance of the block with what is connected to its ports. -/
structure State where
  /-- The architectural registers. -/
  regs : Regs
  /-- The response presented and not yet taken, if any: the one-response-pending condition of 10_state.md R36. -/
  resp : Option Response
  /-- MODEL's own: what the input ports will hold at the coming edges, first edge first (00_scope.md R8; DESIGN CHOICE, log 1, 2). -/
  inputs : List PortInput
  /-- MODEL's own: an edge with `rst = 1` has been seen since power-up (70_reset_and_hazards.md R116; DESIGN CHOICE, log 4). -/
  resetSeen : Bool
  deriving DecidableEq, Repr

/-- Why the machine stops with a fault: never. Every fault of the spec is a NEXT state, S_FAULTED (60_exceptions.md R100), so the
type has no constructor and nothing raises one. -/
inductive Fault : Type
  deriving DecidableEq, Repr

/-- Why the model gives a step no meaning. -/
inductive Refusal where
  /-- Raised by `exec`'s arm of an instruction that has no meaning yet; no arm does. Safe. -/
  | notModelled (mnemonic : String)
  /-- Raised by an edge that offers a command before the first `rst` after power-up: "no command may be sent in that interval"
  (70_reset_and_hazards.md R116; 93_implementation_defined.md section 2 "any value, and refuse"). Safe (log 4). -/
  | beforeFirstReset
  deriving DecidableEq, Repr

/-- The machine right after hardware reset (70_reset_and_hazards.md R114, 10_state.md R38): every register at its stated value, no
response pending. The host has offered nothing yet (log 2) and the reset has been seen (log 4). -/
def State.reset : State :=
  { regs :=
      { fsm := .sIdle, mode := .resetMode, w := 9, next := 257, emitBits := 0, repBits := 0, baseValid := false,
        baseEmit := 0, baseRep := 0, fcause := .fNone, fcmd := 0 }
    resp := none
    inputs := []
    resetSeen := true }

end Sys2Proof.Machine
end

