-- ==== Sys2Proof/Machine/Operands.lean ====
section
/-! DEFINITION. Operand assembly (30_encoding.md R51) and the register map of READ (10_state.md R33). Operands are unsigned fields,
with no sign extension, scaling or shift. -/
namespace Sys2Proof.Machine

/-- MODE = cmd[1:0]: 0 selects Reset mode, 1 Monitor mode, 2 and 3 nothing (30_encoding.md R51). -/
def modeOperand (mode : BitVec 2) : Option Mode :=
  if mode = 0 then some .resetMode
  else if mode = 1 then some .monitorMode
  else none

/-- LEN = zext_64(cmd[27:0]), the length in symbols, as a number (30_encoding.md R51; 00_scope.md R6: arithmetic is on naturals). -/
def lenOperand (len : Len) : Nat := (len.setWidth 64).toNat

/-- The registers READ can name (10_state.md R33). -/
inductive Reg where
  | status | w | l | next | emitBits | repBits | baseEmit | baseRep | fcmd | param0 | param1
  deriving DecidableEq, Repr

/-- REG = cmd[3:0]: the register a number names; 0xB to 0xF name none (10_state.md R33). -/
def regOperand (reg : BitVec 4) : Option Reg :=
  if reg = 0x0 then some .status
  else if reg = 0x1 then some .w
  else if reg = 0x2 then some .l
  else if reg = 0x3 then some .next
  else if reg = 0x4 then some .emitBits
  else if reg = 0x5 then some .repBits
  else if reg = 0x6 then some .baseEmit
  else if reg = 0x7 then some .baseRep
  else if reg = 0x8 then some .fcmd
  else if reg = 0x9 then some .param0
  else if reg = 0xA then some .param1
  else none

end Sys2Proof.Machine
end

