-- ==== Sys2Proof/Machine/Flags.lean ====
section
/-! DEFINITION. The code numbers of the named values and the composed registers STATUS, PARAM0 and PARAM1 (10_state.md R32 to R35).
The block has no condition codes; its retained status bits are BASE_VALID and STATE (R32). -/
namespace Sys2Proof.Machine

/-- The encodings of STATE (10_state.md R13). -/
def Fsm.code : Fsm → BitVec 3
  | .sIdle => 0
  | .sGrowing => 1
  | .sAtcap => 2
  | .sReset => 3
  | .sFaulted => 4

/-- The encodings of MODE (10_state.md R14). -/
def Mode.code : Mode → BitVec 1
  | .resetMode => 0
  | .monitorMode => 1

/-- The fault codes of FCAUSE (60_exceptions.md R97). -/
def Cause.code : Cause → BitVec 4
  | .fNone => 0
  | .fIllegalOp => 1
  | .fRsvdBits => 2
  | .fBadMode => 3
  | .fBadReg => 4
  | .fZeroLen => 5
  | .fNotStarted => 6
  | .fTotalOvf => 7

/-- The codes of `resp_outcome` (30_encoding.md R56). -/
def PolicyOutcome.code : PolicyOutcome → BitVec 3
  | .oNone => 0
  | .oAssigned => 1
  | .oGrew => 2
  | .oReset => 3
  | .oNoopBaseline => 4
  | .oNoopKeep => 5

/-- The codes of `resp_status` (30_encoding.md R57). -/
def RespStatus.code : RespStatus → BitVec 2
  | .rsOk => 0
  | .rsFault => 1
  | .rsRejected => 2

/-- `L`, the code capacity: reads `2^W` (10_state.md R16). -/
def capacity (r : Regs) : Nat := 2 ^ r.w.toNat

/-- STATUS = {11'b0, W[4:0], 4'b0, FCAUSE[3:0], 3'b0, BASE_VALID, MODE, STATE[2:0]} (10_state.md R34). -/
def statusWord (r : Regs) : Word :=
  0#11 ++ (r.w ++ (0#4 ++ (r.fcause.code ++ (0#3 ++ (BitVec.ofBool r.baseValid ++ (r.mode.code ++ r.fsm.code))))))

/-- PARAM0 reads `R` (10_state.md R35). -/
def param0Word (p : Config.Params) : Word := BitVec.ofNat 32 p.r

/-- PARAM1: W0 in [4:0], WMAX in [12:8], SYMBOL_BITS in [23:16], THR_NUM in [39:32], THR_DEN in [55:48], every other bit 0
(10_state.md R35). -/
def param1Word (p : Config.Params) : Total :=
  0#8 ++ (BitVec.ofNat 8 p.thrDen ++ (0#8 ++ (BitVec.ofNat 8 p.thrNum ++ (0#8 ++ (BitVec.ofNat 8 p.symbolBits ++
    (0#3 ++ (BitVec.ofNat 5 p.wmax ++ (0#3 ++ BitVec.ofNat 5 p.w0))))))))

end Sys2Proof.Machine
end

