-- ==== Sys2Proof/Machine/Ops.lean ====
section
/-! DEFINITION. The operations every command shares: the response (30_encoding.md R55), Check (60_exceptions.md R98), taking a fault
and leaving the fault state (R100, R102, R103), the dispatch of R58, reading a register (40_control.md R66), hardware reset
(70_reset_and_hazards.md R114) and the port handshake (30_encoding.md R54). A `p` is the instance's parameters (00_scope.md R4). -/
namespace Sys2Proof.Machine

/-- `respond(status, outcome, code, w, data)` (30_encoding.md R55). A code is below 2^WMAX in every state a run reaches (42_policy.md
R83), so the 16 bits of `resp_code` hold it whole (DEDUCED, log 8). -/
def respond (status : RespStatus) (outcome : PolicyOutcome) (code : Option Counter) (w : Width) (data : Total) : Response :=
  { status, outcome, code := code.map (fun c => c.setWidth 16), w, data }

/-- The plain accepted response of a command that is no EXTEND or PEEK (30_encoding.md R55). -/
def respondOk (r : Regs) (data : Total) : Response := respond .rsOk .oNone none r.w data

/-! ### Taking a fault -/

/-- Fault entry (60_exceptions.md R100): FCAUSE, FCMD and STATE are written on the first fault only (R104), nothing else ever
(R101); the response is RS_FAULT. -/
def takeFault (c : Cause) (cmd : Word) (r : Regs) : Regs × Response :=
  (if r.fsm = .sFaulted then r else { r with fcause := c, fcmd := cmd, fsm := .sFaulted },
    respond .rsFault .oNone none r.w 0)

/-- The answer to a command that S_FAULTED rejects unchecked: no state changes (60_exceptions.md R102). -/
def reject (r : Regs) : Regs × Response := (r, respond .rsRejected .oNone none r.w 0)

/-- The opcodes performed in S_FAULTED: NOP, START and READ (60_exceptions.md R102). -/
def performedWhenFaulted : Op → Bool
  | .nop => true
  | .start => true
  | .account => false
  | .extend => false
  | .peek => false
  | .read => true

/-- The stream-start values START writes; they also clear a fault, which is the only way back from S_FAULTED but hardware reset
(40_control.md R64, 60_exceptions.md R103). -/
def beginRun (p : Config.Params) (m : Mode) : Regs :=
  { fsm := .sGrowing
    mode := m
    w := BitVec.ofNat 5 p.w0
    next := BitVec.ofNat 17 p.firstCode
    emitBits := 0
    repBits := 0
    baseValid := false
    baseEmit := 0
    baseRep := 0
    fcause := .fNone
    fcmd := 0 }

/-! ### Check -/

/-- The opcodes that need a run: ACCOUNT, EXTEND and PEEK (60_exceptions.md R98). -/
def needsRun : Op → Bool
  | .nop => false
  | .start => false
  | .account => true
  | .extend => true
  | .peek => true
  | .read => false

/-- The largest value of a total, 2^64 - 1 (60_exceptions.md R97). -/
def totalMax : Nat := 2 ^ Config.totalBits - 1

/-- A Monitor-mode ACCOUNT of `len` symbols would carry a total past 2^64 - 1 (60_exceptions.md R98). -/
def totalsOverflow (p : Config.Params) (r : Regs) (len : Len) : Bool :=
  r.mode == .monitorMode &&
    (decide (r.emitBits.toNat + r.w.toNat > totalMax) ||
      decide (r.repBits.toNat + p.symbolBits * lenOperand len > totalMax))

/-- The last test of Check: only ACCOUNT can overflow (60_exceptions.md R97). -/
def overflows (p : Config.Params) (i : Instr) (r : Regs) : Bool :=
  match i with
  | .nop _ => false
  | .start _ _ => false
  | .account len => totalsOverflow p r len
  | .extend _ => false
  | .peek _ => false
  | .read _ _ => false

/-- `Check(cmd)` for a word whose opcode is one of the six: the first cause that applies, in the order of 60_exceptions.md R98. (Its
first test, F_ILLEGAL_OP, is `performIllegal`'s: such a word is no `Instr`.) -/
def check (p : Config.Params) (i : Instr) (r : Regs) : Cause :=
  if i.reservedClear = false then .fRsvdBits
  else if i.modeLegal = false then .fBadMode
  else if i.regLegal = false then .fBadReg
  else if i.lenLegal = false then .fZeroLen
  else if needsRun i.op = true ∧ r.fsm = .sIdle then .fNotStarted
  else if overflows p i r then .fTotalOvf
  else .fNone

/-! ### Dispatch -/

/-- The registers with the answer a command gave them, the response now pending (30_encoding.md R54, R58). -/
def State.answer (s : State) (a : Regs × Response) : State := { s with regs := a.1, resp := some a.2 }

/-- `Step(cmd)` around the command's own effect (30_encoding.md R58): rejected in S_FAULTED, else checked, else performed. The word
recorded by a fault is the command's whole word, which `encode` gives back (log 6). -/
def perform (p : Config.Params) (i : Instr) (body : Regs → Regs × Response) (s : State) : State :=
  s.answer
    (if s.regs.fsm = .sFaulted ∧ performedWhenFaulted i.op = false then reject s.regs
     else if check p i s.regs = .fNone then body s.regs
     else takeFault (check p i s.regs) (encode i) s.regs)

/-- `Step(cmd)` for opcodes 0x6 to 0xF: rejected in S_FAULTED, else F_ILLEGAL_OP (30_encoding.md R58, 60_exceptions.md R98, R102). -/
def performIllegal (cmd : Word) (s : State) : State :=
  s.answer (if s.regs.fsm = .sFaulted then reject s.regs else takeFault .fIllegalOp cmd s.regs)

/-! ### Reading a register -/

/-- What READ returns, zero-extended to 64 bits (40_control.md R66, 10_state.md R33). -/
def readReg (p : Config.Params) (r : Regs) : Reg → Total
  | .status => (statusWord r).setWidth 64
  | .w => r.w.setWidth 64
  | .l => BitVec.ofNat 64 (capacity r)
  | .next => r.next.setWidth 64
  | .emitBits => r.emitBits
  | .repBits => r.repBits
  | .baseEmit => r.baseEmit
  | .baseRep => r.baseRep
  | .fcmd => r.fcmd.setWidth 64
  | .param0 => (param0Word p).setWidth 64
  | .param1 => param1Word p

/-! ### Hardware reset and the ports -/

/-- HardwareReset() (70_reset_and_hazards.md R114): every register takes its reset value and a pending response is abandoned. -/
def hardwareReset (p : Config.Params) (s : State) : State :=
  { s with
    regs :=
      { fsm := .sIdle, mode := .resetMode, w := BitVec.ofNat 5 p.w0, next := BitVec.ofNat 17 p.firstCode, emitBits := 0,
        repBits := 0, baseValid := false, baseEmit := 0, baseRep := 0, fcause := .fNone, fcmd := 0 }
    resp := none
    resetSeen := true }

/-- `fault_o` is 1 exactly when STATE = S_FAULTED (30_encoding.md R54, 60_exceptions.md R105). -/
def faultO (s : State) : Bool := s.regs.fsm == .sFaulted

/-- `resp_valid` (30_encoding.md R54); while `rst = 1` no response is presented (70_reset_and_hazards.md R114). -/
def respValid (rst : Bool) (s : State) : Bool := !rst && s.resp.isSome

/-- `cmd_ready` (30_encoding.md R54): low while `rst = 1` (70_reset_and_hazards.md R114), before the first reset (R116, log 4), and from
the acceptance of a command until its response has been taken. -/
def cmdReady (rst : Bool) (s : State) : Bool := !rst && s.resetSeen && s.resp.isNone

/-- The response ports of 30_encoding.md R54. -/
structure ResponsePorts where
  respStatus : BitVec 2
  respOutcome : BitVec 3
  respCodeValid : Bool
  respCode : Code
  respW : Width
  respData : Total
  deriving DecidableEq, Repr

/-- A response as the ports carry it (30_encoding.md R54 to R57): `code = -` gives `resp_code_valid = 0` and `resp_code = 0`. -/
def Response.ports (q : Response) : ResponsePorts :=
  { respStatus := q.status.code
    respOutcome := q.outcome.code
    respCodeValid := q.code.isSome
    respCode := q.code.getD 0
    respW := q.w
    respData := q.data }

/-- The output ports of 30_encoding.md R54. The response ports are absent while `resp_valid = 0`: they are "meaningful only while
`resp_valid = 1`" (70_reset_and_hazards.md R124). -/
structure PortOutput where
  cmdReady : Bool
  respValid : Bool
  response : Option ResponsePorts
  faultO : Bool
  deriving DecidableEq, Repr

/-- What the output ports show while `rst` has the given level. -/
def outputs (rst : Bool) (s : State) : PortOutput :=
  { cmdReady := cmdReady rst s
    respValid := respValid rst s
    response := if respValid rst s then s.resp.map Response.ports else none
    faultO := faultO s }

/-- The response is taken: the block may accept a command again (30_encoding.md R54). -/
def takeResponse (s : State) : State := { s with resp := none }

end Sys2Proof.Machine
end

