-- ==== Sys2Proof/Machine/Accounting.lean ====
section
/-! DEFINITION. The ratio-accounting command ACCOUNT (41_accounting.md). -/
namespace Sys2Proof.Machine

/-- ACCOUNT's own effect (41_accounting.md R68): in Monitor mode one codeword of the current width, standing for LEN symbols, joins the
totals; in Reset mode nothing changes (R70). Check has refused a sum past 2^64 - 1, so neither addition wraps. -/
def accountBody (p : Config.Params) (len : Len) (r : Regs) : Regs × Response :=
  match r.mode with
  | .monitorMode =>
    ({ r with
        emitBits := r.emitBits + r.w.setWidth 64
        repBits := r.repBits + BitVec.ofNat 64 (p.symbolBits * lenOperand len) },
      respondOk r 0)
  | .resetMode => (r, respondOk r 0)

/-- ACCOUNT (41_accounting.md R68 to R70). -/
def execAccount (len : Len) (s : State) : Host.Outcome State Fault Refusal :=
  .next (perform Config.hw (.account len) (accountBody Config.hw len) s)

end Sys2Proof.Machine
end

