-- ==== Sys2Proof/Machine/Control.lean ====
section
/-! DEFINITION. The control commands NOP, START and READ (40_control.md). -/
namespace Sys2Proof.Machine

/-- NOP (40_control.md R63): performed in every state, writes nothing. -/
def execNop (rsvd : BitVec 28) (s : State) : Host.Outcome State Fault Refusal :=
  .next (perform Config.hw (.nop rsvd) (fun r => (r, respondOk r 0)) s)

/-- START's own effect: every register takes its stream-start value, MODE the operand's (40_control.md R64). Check has refused MODE 2
and 3, so the operand is `cmd[0]`. -/
def startBody (p : Config.Params) (mode : BitVec 2) (r : Regs) : Regs × Response :=
  match modeOperand mode with
  | some m => (beginRun p m, respondOk (beginRun p m) 0)
  | none => (r, respondOk r 0)

/-- START (40_control.md R64): performed in every state; in S_FAULTED it clears the fault. -/
def execStart (rsvd : BitVec 26) (mode : BitVec 2) (s : State) : Host.Outcome State Fault Refusal :=
  .next (perform Config.hw (.start rsvd mode) (startBody Config.hw mode) s)

/-- READ's own effect: the register's value, nothing written (40_control.md R66, R67). Check has refused 0xB to 0xF. -/
def readBody (p : Config.Params) (reg : BitVec 4) (r : Regs) : Regs × Response :=
  match regOperand reg with
  | some x => (r, respondOk r (readReg p r x))
  | none => (r, respondOk r 0)

/-- READ (40_control.md R66): performed in every state. -/
def execRead (rsvd : BitVec 24) (reg : BitVec 4) (s : State) : Host.Outcome State Fault Refusal :=
  .next (perform Config.hw (.read rsvd reg) (readBody Config.hw reg) s)

end Sys2Proof.Machine
end

