-- ==== Sys2Proof/Machine/Policy.lean ====
section
/-! DEFINITION. The policy decision and the width state machine (42_policy.md): Decide, Exceeds, Apply, NextState, and the commands
EXTEND and PEEK over them. -/
namespace Sys2Proof.Machine

/-- A decision `d = (outcome, code, w)` (42_policy.md R71). -/
structure Decision where
  outcome : PolicyOutcome
  /-- The code to be assigned, if any. -/
  code : Option Counter
  /-- The width the block will have after the decision is applied. -/
  w : Width
  deriving DecidableEq, Repr

/-- The Monitor-mode threshold test on unbounded naturals, strict (42_policy.md R72). -/
def exceeds (p : Config.Params) (r : Regs) : Bool :=
  decide (p.thrDen * r.baseRep.toNat * r.emitBits.toNat > p.thrNum * r.baseEmit.toNat * r.repBits.toNat)

/-- The decision to reset: code R + 1 at width W0 (42_policy.md R71). -/
def resetDecision (p : Config.Params) : Decision :=
  { outcome := .oReset, code := some (BitVec.ofNat 17 p.firstCode), w := BitVec.ofNat 5 p.w0 }

/-- `Decide` (42_policy.md R71): capacity first, then width growth, then the mode's reclamation. It never reads STATE. -/
def decision (p : Config.Params) (r : Regs) : Decision :=
  if r.next.toNat < capacity r then { outcome := .oAssigned, code := some r.next, w := r.w }
  else if r.w.toNat < p.wmax then { outcome := .oGrew, code := some r.next, w := r.w + 1 }
  else if r.mode = .resetMode then resetDecision p
  else if r.baseValid = false then { outcome := .oNoopBaseline, code := none, w := r.w }
  else if exceeds p r then resetDecision p
  else { outcome := .oNoopKeep, code := none, w := r.w }

/-- `Apply(d)` (42_policy.md R74). No outcome writes MODE. (`oNone` is no decision's outcome.) -/
def applyDecision (p : Config.Params) (o : PolicyOutcome) (r : Regs) : Regs :=
  match o with
  | .oNone => r
  | .oAssigned => { r with next := r.next + 1 }
  | .oGrew => { r with w := r.w + 1, next := r.next + 1 }
  | .oReset =>
    { r with
      w := BitVec.ofNat 5 p.w0
      next := BitVec.ofNat 17 p.firstCode + 1
      emitBits := 0
      repBits := 0
      baseValid := false
      baseEmit := 0
      baseRep := 0 }
  | .oNoopBaseline => { r with baseEmit := r.emitBits, baseRep := r.repBits, baseValid := true }
  | .oNoopKeep => r

/-- `NextState(d)`, reading the W and NEXT that Apply left (42_policy.md R75). -/
def nextFsm (p : Config.Params) (o : PolicyOutcome) (r : Regs) : Fsm :=
  if r.w.toNat = p.wmax ∧ r.next.toNat = p.lmax then .sAtcap
  else if o = .oReset then .sReset
  else .sGrowing

/-- Apply and NextState in sequence: the registers an EXTEND leaves (42_policy.md R76). -/
def extendRegs (p : Config.Params) (r : Regs) : Regs :=
  let r' := applyDecision p (decision p r).outcome r
  { r' with fsm := nextFsm p (decision p r).outcome r' }

/-- EXTEND's own effect: the decision performed and reported, with the W it left (42_policy.md R76). -/
def extendBody (p : Config.Params) (r : Regs) : Regs × Response :=
  (extendRegs p r, respond .rsOk (decision p r).outcome (decision p r).code (extendRegs p r).w 0)

/-- EXTEND (42_policy.md R76). -/
def execExtend (rsvd : BitVec 28) (s : State) : Host.Outcome State Fault Refusal :=
  .next (perform Config.hw (.extend rsvd) (extendBody Config.hw) s)

/-- PEEK's own effect: the decision reported with the width EXTEND would leave, nothing written (42_policy.md R77). -/
def peekBody (p : Config.Params) (r : Regs) : Regs × Response :=
  (r, respond .rsOk (decision p r).outcome (decision p r).code (decision p r).w 0)

/-- PEEK (42_policy.md R77). -/
def execPeek (rsvd : BitVec 28) (s : State) : Host.Outcome State Fault Refusal :=
  .next (perform Config.hw (.peek rsvd) (peekBody Config.hw) s)

end Sys2Proof.Machine
end

