-- ==== Sys2Proof/Machine/Dispatch.lean ====
section
/-! DEFINITION. One arm per command: the `case op` of 30_encoding.md R58. -/
namespace Sys2Proof.Machine

def exec (i : Instr) (s : State) : Host.Outcome State Fault Refusal :=
  match i with
  | .nop rsvd => Sys2Proof.Machine.execNop rsvd s
  | .start rsvd mode => Sys2Proof.Machine.execStart rsvd mode s
  | .account len => Sys2Proof.Machine.execAccount len s
  | .extend rsvd => Sys2Proof.Machine.execExtend rsvd s
  | .peek rsvd => Sys2Proof.Machine.execPeek rsvd s
  | .read rsvd reg => Sys2Proof.Machine.execRead rsvd reg s

end Sys2Proof.Machine
end

