-- ==== Sys2Proof/Machine/Interface.lean ====
section
/-! DEFINITION. What one rising edge of `clk` does with the ports (30_encoding.md R54, 70_reset_and_hazards.md R114, R124): hardware
reset, a response taken, a command accepted and performed whole (00_scope.md R8: a step is one whole command), or nothing. -/
namespace Sys2Proof.Machine

/-- An accepted word is decoded and performed; opcodes 0x6 to 0xF are no command and fault (30_encoding.md R58). -/
def runWord (cmd : Word) (s : State) : Host.Outcome State Fault Refusal :=
  match decode cmd with
  | .ok i => exec i s
  | .error (.illegalOp _) => .next (performIllegal cmd s)

/-- One edge. `rst` wins over everything (70_reset_and_hazards.md R114, log 14). A command offered before the first reset is refused
(R116, log 4). While a response is pending `cmd_ready` is 0, at the edge that takes it too (30_encoding.md R54, log 3). -/
def edge (inp : PortInput) (s : State) : Host.Outcome State Fault Refusal :=
  if inp.rst then .next (hardwareReset Config.hw s)
  else if s.resetSeen = false then
    if inp.cmdValid then .refused .beforeFirstReset else .next s
  else if s.resp.isSome then .next (if inp.respReady then takeResponse s else s)
  else if inp.cmdValid then runWord inp.cmdWord s
  else .next s

/-- The ports' next inputs are consumed and the edge happens; with no more inputs the block waits, its state retained
(60_exceptions.md R113). -/
def nextEdge (s : State) : Host.Outcome State Fault Refusal :=
  match s.inputs with
  | [] => .next s
  | inp :: rest => edge inp { s with inputs := rest }

/-- The input of an edge at which the host offers one command word and nothing else happens. -/
def offer (cmd : Word) : PortInput := { rst := false, cmdValid := true, cmdWord := cmd, respReady := false }

/-- The input of an edge at which the host takes the response and nothing else happens. -/
def take : PortInput := { rst := false, cmdValid := false, cmdWord := 0, respReady := true }

/-- `s` with the word `w` of `nbits` bits offered at its very next edge, the block able to accept it (log 2). -/
def offerNext (s : State) (nbits w : Nat) : State :=
  { s with resp := none, inputs := offer (BitVec.ofNat 32 (w % 2 ^ nbits)) :: s.inputs, resetSeen := true }

end Sys2Proof.Machine
end

