-- ==== Sys2Proof/Machine/Step.lean ====
section
/-! DEFINITION. The step: one rising edge at which the interface moves, so one whole command when one is accepted (00_scope.md R8). -/
namespace Sys2Proof.Machine

/-- One step of the block. -/
def step (s : State) : Host.Outcome State Fault Refusal := nextEdge s

/-- `s` with the command word `w` offered where step takes its next command: at the head of `inputs`, with no response pending and the
reset seen, which is all that acceptance needs (30_encoding.md R54). -/
def State.withFetchWord (s : State) (nbits w : Nat) : State := offerNext s nbits w

end Sys2Proof.Machine
end

