-- ==== Sys2Proof/Machine/Assembler.lean ====
section
/-! DEFINITION. The assembler of 30_encoding.md R61 and R62: one line to its command words, with the pseudo-instructions ESTEP and
ELAST of 45_host_sequences.md R85 and R86. It runs outside the block. Text is a list of characters. -/
namespace Sys2Proof.Machine

/-- One line of assembler, its names and numbers read (30_encoding.md R61). -/
inductive AsmLine where
  | nop
  | start (mode : BitVec 2)
  | account (len : Len)
  | extend
  | peek
  | read (reg : BitVec 4)
  | word (w : Word)
  | estep (len : Len)
  | elast (len : Len)
  deriving DecidableEq, Repr

/-- The words of a line: every reserved bit 0 (30_encoding.md R61); ESTEP is ACCOUNT then EXTEND, ELAST is ACCOUNT
(45_host_sequences.md R85, R86). -/
def assemble : AsmLine → List Word
  | .nop => [encode (.nop 0)]
  | .start mode => [encode (.start 0 mode)]
  | .account len => [encode (.account len)]
  | .extend => [encode (.extend 0)]
  | .peek => [encode (.peek 0)]
  | .read reg => [encode (.read 0 reg)]
  | .word w => [w]
  | .estep len => [encode (.account len), encode (.extend 0)]
  | .elast len => [encode (.account len)]

/-- Upper case, so that mnemonics and names are case-insensitive (30_encoding.md R61). -/
def upperChar (c : Char) : Char := if 'a' ≤ c ∧ c ≤ 'z' then Char.ofNat (c.toNat - 32) else c

/-- The characters that separate tokens (DESIGN CHOICE, log 16). -/
def isBlank (c : Char) : Bool := c == ' ' || c == '\t' || c == '\r'

/-- The tokens of a line, its comment cut off at `;`, in upper case (30_encoding.md R61). R61 makes mnemonics and names
case-insensitive and is silent on numbers: the whole line is put in upper case, so that the prefix `0x` and the hexadecimal digits are
read in either case too (DESIGN CHOICE, log 16). -/
def tokens (line : List Char) : List (List Char) :=
  let push (cur : List Char) (done : List (List Char)) := if cur.isEmpty then done else cur.reverse :: done
  let (cur, done) :=
    (line.takeWhile (fun c => c != ';')).foldl
      (fun (acc : List Char × List (List Char)) c =>
        if isBlank c then ([], push acc.1 acc.2) else (upperChar c :: acc.1, acc.2))
      ([], [])
  (push cur done).reverse

/-- The value of a digit below the base, in upper case. -/
def digitValue (base : Nat) (c : Char) : Option Nat :=
  let v :=
    if '0' ≤ c ∧ c ≤ '9' then c.toNat - '0'.toNat
    else if 'A' ≤ c ∧ c ≤ 'F' then c.toNat - 'A'.toNat + 10
    else base
  if v < base then some v else none

/-- A number of one digit or more in a base. -/
def digitsValue (base : Nat) (cs : List Char) : Option Nat :=
  if cs.isEmpty then none
  else cs.foldl (fun acc c => acc.bind fun a => (digitValue base c).map fun d => a * base + d) (some 0)

/-- A number, decimal or `0x` hexadecimal (30_encoding.md R61), its letters put in upper case by `tokens` (DESIGN CHOICE, log 16). -/
def numberToken : List Char → Option Nat
  | '0' :: 'X' :: cs => digitsValue 16 cs
  | cs => digitsValue 10 cs

/-- A number that fits a field of `n` bits; a larger one is no operand (DESIGN CHOICE, log 16). -/
def fieldToken (n : Nat) (t : List Char) : Option (BitVec n) :=
  (numberToken t).bind fun v => if v < 2 ^ n then some (BitVec.ofNat n v) else none

/-- START's operand: RESET, MONITOR or a number 0 to 3 (30_encoding.md R61). -/
def modeToken (t : List Char) : Option (BitVec 2) :=
  if t = "RESET".toList then some 0
  else if t = "MONITOR".toList then some 1
  else fieldToken 2 t

/-- The register names of 30_encoding.md R61 with the numbers of 10_state.md R33. -/
def registerNames : List (List Char × BitVec 4) :=
  [("STATUS".toList, 0x0), ("W".toList, 0x1), ("L".toList, 0x2), ("NEXT".toList, 0x3), ("EMIT_BITS".toList, 0x4),
    ("REP_BITS".toList, 0x5), ("BASE_EMIT".toList, 0x6), ("BASE_REP".toList, 0x7), ("FCMD".toList, 0x8),
    ("PARAM0".toList, 0x9), ("PARAM1".toList, 0xA)]

/-- READ's operand: a register name or a number 0 to 15 (30_encoding.md R61). -/
def registerToken (t : List Char) : Option (BitVec 4) :=
  match registerNames.lookup t with
  | some reg => some reg
  | none => fieldToken 4 t

/-- One command of assembler text, from its tokens (30_encoding.md R61, R62). -/
def parseTokens : List (List Char) → Option AsmLine
  | [m] =>
    if m = "NOP".toList then some .nop
    else if m = "EXTEND".toList then some .extend
    else if m = "PEEK".toList then some .peek
    else none
  | [m, x] =>
    if m = "START".toList then (modeToken x).map .start
    else if m = "ACCOUNT".toList then (fieldToken 28 x).map .account
    else if m = "READ".toList then (registerToken x).map .read
    else if m = ".WORD".toList then (fieldToken 32 x).map .word
    else if m = "ESTEP".toList then (fieldToken 28 x).map .estep
    else if m = "ELAST".toList then (fieldToken 28 x).map .elast
    else none
  | _ => none

/-- One line of text to its command words; a line with no token gives none, a line that is no command is an error. -/
def assembleText (line : List Char) : Option (List Word) :=
  match tokens line with
  | [] => some []
  | ts => (parseTokens ts).map assemble

end Sys2Proof.Machine
end

