-- ==== Sys2Proof/Machine/HostSequences.lean ====
section
/-! DEFINITION. The encoder host and the decoder host of 45_host_sequences.md, around one instance of the block: obligations on the
host, no part of the step (00_scope.md R8). The dictionary, the table and the bit channel are the host's collaborators; they are
written here as plain lists so that the sequences can be run (DESIGN CHOICE, log 13). -/
namespace Sys2Proof.Machine

/-! ### Issuing commands -/

/-- One command issued and its response taken (70_reset_and_hazards.md R124). -/
def issue (cmd : Word) (s : State) : Option (Response × State) :=
  match runWord cmd s with
  | .next t => t.resp.map fun q => (q, takeResponse t)
  | .fault _ => none
  | .refused _ => none

/-- Commands issued one after another, with their responses in order (20_memory.md R44). -/
def issueAll : List Word → State → Option (List Response × State)
  | [], s => some ([], s)
  | cmd :: cmds, s =>
    match issue cmd s with
    | none => none
    | some (q, t) => (issueAll cmds t).map fun a => (q :: a.1, a.2)

/-- `START m`. -/
def startWord (m : Mode) : Word := encode (.start 0 (m.code.setWidth 2))

/-- `ACCOUNT n`. -/
def accountWord (n : Len) : Word := encode (.account n)

/-- `EXTEND`. -/
def extendWord : Word := encode (.extend 0)

/-- `PEEK`. -/
def peekWord : Word := encode (.peek 0)

/-- `ESTEP n` (45_host_sequences.md R85). -/
def estep (n : Len) : List Word := [accountWord n, extendWord]

/-- `ELAST n` (45_host_sequences.md R86). -/
def elast (n : Len) : List Word := [accountWord n]

/-- The encoder's commands after START for codes standing for these many symbols (45_host_sequences.md R88): ESTEP for each but the
last, ELAST for the last. -/
def encoderSteps : List Len → List Word
  | [] => []
  | [n] => elast n
  | n :: m :: ns => estep n ++ encoderSteps (m :: ns)

/-- The encoder's whole command sequence (45_host_sequences.md R88); an empty input gives `START m` alone (R96). -/
def encoderCommands (m : Mode) (ns : List Len) : List Word := startWord m :: encoderSteps ns

/-- The decoder's commands for each data codeword after the first (45_host_sequences.md R90). -/
def decoderSteps : List Len → List Word
  | [] => [peekWord]
  | n :: ns => peekWord :: extendWord :: accountWord n :: decoderSteps ns

/-- The decoder's whole command sequence on a stream whose codewords stand for these many symbols (45_host_sequences.md R90): an empty
stream stops at the sentinel read after START. The first codeword of a stream is a single symbol, so its length is 1 (R93). -/
def decoderCommands (m : Mode) : List Len → List Word
  | [] => [startWord m]
  | n :: ns => startWord m :: accountWord n :: decoderSteps ns

/-! ### The wire -/

/-- One symbol of the stream, `SYMBOL_BITS` = 8 bits. -/
abbrev Symbol := BitVec 8

/-- A value written as `width` bits, first bit first (92_eei_decisions.md D40). -/
def putBits (o : Config.WireBitOrder) (width value : Nat) : List Bool :=
  match o with
  | .msbFirst => ((List.range width).map value.testBit).reverse
  | .lsbFirst => (List.range width).map value.testBit

/-- The value of bits, first bit first. -/
def bitsValue (o : Config.WireBitOrder) (bits : List Bool) : Nat :=
  match o with
  | .msbFirst => bits.foldl (fun v b => 2 * v + b.toNat) 0
  | .lsbFirst => bits.foldr (fun b v => 2 * v + b.toNat) 0

/-- `width` bits read from the channel; none when it is exhausted (45_host_sequences.md R90). -/
def getBits (o : Config.WireBitOrder) (width : Nat) (bits : List Bool) : Option (Nat × List Bool) :=
  if bits.length < width then none else some (bitsValue o (bits.take width), bits.drop width)

/-- Closing the channel zero-pads the last byte (45_host_sequences.md R88). -/
def closeChannel (bits : List Bool) : List Bool := bits ++ List.replicate ((8 - bits.length % 8) % 8) false

/-- The bytes of a closed channel. -/
def streamBytes (o : Config.WireBitOrder) (bits : List Bool) : List (BitVec 8) :=
  (List.range (bits.length / 8)).map fun k => BitVec.ofNat 8 (bitsValue o ((bits.drop (8 * k)).take 8))

/-- `TAG(m)` (45_host_sequences.md R94). -/
def modeTag (tags : Config.ModeTags) : Mode → BitVec 8
  | .resetMode => tags.reset
  | .monitorMode => tags.monitor

/-- The mode a tag names; any other value is an unsupported mode tag (45_host_sequences.md R94). -/
def tagMode (tags : Config.ModeTags) (t : BitVec 8) : Option Mode :=
  if t = tags.reset then some .resetMode
  else if t = tags.monitor then some .monitorMode
  else none

/-! ### The encoder host -/

/-- The entries of a dictionary above the alphabet, each a sequence and its code. The fresh-alphabet dictionary lists none. -/
abbrev Dictionary := List (List Symbol × Nat)

/-- The encoder host: its block, its dictionary and the bits written so far. -/
structure EncoderHost where
  block : State
  dict : Dictionary
  bits : List Bool
  deriving DecidableEq, Repr

/-- `dict.longest_prefix(x)` with its code; a single symbol is always present (00_scope.md section 6). -/
def longestPrefix (dict : Dictionary) (x : List Symbol) : List Symbol × Nat :=
  dict.foldl (fun best e => if e.1.isPrefixOf x ∧ best.1.length < e.1.length then e else best)
    (x.take 1, (x.headD 0).toNat)

/-- The encoder's reaction to an EXTEND response (45_host_sequences.md R89). -/
def encoderReact (e : Response) (ext : List Symbol) (dict : Dictionary) : Dictionary :=
  match e.outcome, e.code with
  | .oAssigned, some c => (ext, c.toNat) :: dict
  | .oGrew, some c => (ext, c.toNat) :: dict
  | .oReset, some c => [(ext, c.toNat)]
  | _, _ => dict

/-- The loop of 45_host_sequences.md R88, at most `fuel` codes; each takes at least one symbol, so `|x|` is enough. A length above
2^28 - 1 cannot be accounted (93_implementation_defined.md section 2): the host stops. -/
def encodeLoop (o : Config.WireBitOrder) : Nat → List Symbol → EncoderHost → Option EncoderHost
  | 0, _, h => some h
  | _ + 1, [], h => some h
  | fuel + 1, x, h =>
    let s := longestPrefix h.dict x
    let bits := h.bits ++ putBits o h.block.regs.w.toNat s.2
    if s.1.length < 2 ^ 28 then
      match issue (accountWord (BitVec.ofNat 28 s.1.length)) h.block with
      | none => none
      | some (_, b) =>
        match x.drop s.1.length with
        | [] => some { h with block := b, bits := bits }
        | a :: rest =>
          match issue extendWord b with
          | none => none
          | some (e, b') =>
            encodeLoop o fuel (a :: rest)
              { block := b', dict := encoderReact e (s.1 ++ [a]) h.dict, bits := bits }
    else none

/-- EncodeHost(x, m) (45_host_sequences.md R88): the block it leaves and the bits of the closed stream. The sentinel is written at the
current width and is not accounted. -/
def encodeHost (o : Config.WireBitOrder) (tags : Config.ModeTags) (m : Mode) (x : List Symbol) (s : State) :
    Option (State × List Bool) :=
  match issue (startWord m) s with
  | none => none
  | some (_, b) =>
    (encodeLoop o x.length x { block := b, dict := [], bits := putBits o 8 (modeTag tags m).toNat }).map fun h =>
      (h.block, closeChannel (h.bits ++ putBits o h.block.regs.w.toNat Config.hw.sentinel))

/-! ### The decoder host -/

/-- The host-level errors of 60_exceptions.md R99, and the block not answering (which no command of the block does). -/
inductive ProtocolError where
  | unsupportedModeTag | truncatedStream | indexBeyondTable | lengthBeyondAccount | blockStopped
  deriving DecidableEq, Repr

/-- The decoder host: its block, its table above the alphabet, the previous sequence, the output and the bits not yet read. -/
structure DecoderHost where
  block : State
  table : List (Nat × List Symbol)
  prev : List Symbol
  output : List Symbol
  bits : List Bool
  deriving DecidableEq, Repr

/-- `top`, the highest assigned code after an EXTEND (45_host_sequences.md R91). -/
def topCode (e : Response) (block : State) : Nat :=
  match e.code with
  | some c => c.toNat
  | none => block.regs.next.toNat - 1

/-- `Resolve(c, e)` (45_host_sequences.md R91), with the table as it stands after an O_RESET's rebuild. -/
def resolve (c : Nat) (e : Response) (block : State) (table : List (Nat × List Symbol)) (prev : List Symbol) :
    Option (List Symbol) :=
  if e.code.map BitVec.toNat = some c then some (prev ++ prev.take 1)
  else if c < Config.hw.r then some [BitVec.ofNat 8 c]
  else if Config.hw.r < c ∧ c ≤ topCode e block then table.lookup c
  else none

/-- What a decoder ends with: its host, and the error that stopped it, if any. -/
abbrev DecodeResult := DecoderHost × Option ProtocolError

/-- The loop of 45_host_sequences.md R90, at most `fuel` codewords; each takes at least one bit. -/
def decodeLoop (o : Config.WireBitOrder) : Nat → DecoderHost → DecodeResult
  | 0, h => (h, some .truncatedStream)
  | fuel + 1, h =>
    match issue peekWord h.block with
    | none => (h, some .blockStopped)
    | some (p, b) =>
      match getBits o p.w.toNat h.bits with
      | none => ({ h with block := b }, some .truncatedStream)
      | some (c, bits) =>
        if c = Config.hw.sentinel then ({ h with block := b, bits := bits }, none)
        else
          match issue extendWord b with
          | none => (h, some .blockStopped)
          | some (e, b') =>
            let table := if e.outcome = .oReset then [] else h.table
            match resolve c e b' table h.prev with
            | none => ({ h with block := b', bits := bits, table := table }, some .indexBeyondTable)
            | some s =>
              let table' :=
                match e.code with
                | some k => (k.toNat, h.prev ++ s.take 1) :: table
                | none => table
              if s.length < 2 ^ 28 then
                match issue (accountWord (BitVec.ofNat 28 s.length)) b' with
                | none => (h, some .blockStopped)
                | some (_, b'') =>
                  decodeLoop o fuel { block := b'', table := table', prev := s, output := h.output ++ s, bits := bits }
              else ({ h with block := b', bits := bits }, some .lengthBeyondAccount)

/-- DecodeHost() (45_host_sequences.md R90): the mode tag, START, the first codeword, then the loop. -/
def decodeHost (o : Config.WireBitOrder) (tags : Config.ModeTags) (bits : List Bool) (s : State) : DecodeResult :=
  let h : DecoderHost := { block := s, table := [], prev := [], output := [], bits := bits }
  match getBits o 8 bits with
  | none => (h, some .truncatedStream)
  | some (t, bits) =>
    match tagMode tags (BitVec.ofNat 8 t) with
    | none => (h, some .unsupportedModeTag)
    | some m =>
      match issue (startWord m) s with
      | none => (h, some .blockStopped)
      | some (_, b) =>
        match getBits o Config.hw.w0 bits with
        | none => ({ h with block := b }, some .truncatedStream)
        | some (c, bits) =>
          if c = Config.hw.sentinel then ({ h with block := b, bits := bits }, none)
          else if c > Config.hw.sentinel then ({ h with block := b, bits := bits }, some .indexBeyondTable)
          else
            match issue (accountWord 1) b with
            | none => (h, some .blockStopped)
            | some (_, b') =>
              decodeLoop o bits.length
                { block := b', table := [], prev := [BitVec.ofNat 8 c], output := [BitVec.ofNat 8 c], bits := bits }

end Sys2Proof.Machine
end

