-- ==== Sys2Proof/Safety.lean ====
section
/-! DEFINITION. The terms claims use: the three shapes of an answer, Check on raw words, acceptance at an edge, the invariant of
10_state.md R24 to R29, and a safe run. Nothing here is read by the machine. -/
namespace Sys2Proof.Safety

open Sys2Proof.Machine

/-- `s` after a command that left the registers `r` and responded `q`. -/
def answered (s : State) (r : Regs) (q : Response) : State := { s with regs := r, resp := some q }

/-- `s` after fault entry with cause `c` for the word `cmd` (60_exceptions.md R100): the first fault is recorded and kept (R104), every
other register unchanged, the response RS_FAULT. -/
def faulted (c : Cause) (cmd : Word) (s : State) : State :=
  answered s
    (if s.regs.fsm = .sFaulted then s.regs else { s.regs with fsm := .sFaulted, fcause := c, fcmd := cmd })
    { status := .rsFault, outcome := .oNone, code := none, w := s.regs.w, data := 0 }

/-- `s` after a command rejected in S_FAULTED (60_exceptions.md R102): no register changed, the response RS_REJECTED. -/
def rejected (s : State) : State :=
  answered s s.regs { status := .rsRejected, outcome := .oNone, code := none, w := s.regs.w, data := 0 }

/-- The response RS_OK with no outcome and no code (30_encoding.md R55). -/
def okResponse (w : Width) (data : Total) : Response :=
  { status := .rsOk, outcome := .oNone, code := none, w := w, data := data }

/-- A run is in progress: STATE is neither S_IDLE nor S_FAULTED. -/
abbrev Started (r : Regs) : Prop := r.fsm ≠ .sIdle ∧ r.fsm ≠ .sFaulted

/-- The opcode of a word as a number (30_encoding.md R49). -/
def opNumber (cmd : Word) : Nat := cmd.toNat / 2 ^ 28

/-- RSVD_MASK(format(op)) of 30_encoding.md R50, by opcode number. -/
def rsvdMaskOf (op : Nat) : Word :=
  if op = 1 then 0x0FFFFFFC
  else if op = 2 then 0x00000000
  else if op = 5 then 0x0FFFFFF0
  else 0x0FFFFFFF

/-- `Check(cmd)` on the raw word, the pseudocode of 60_exceptions.md R98 line by line. -/
def checkWord (cmd : Word) (r : Regs) : Cause :=
  if opNumber cmd ≥ 6 then .fIllegalOp
  else if cmd &&& rsvdMaskOf (opNumber cmd) ≠ 0 then .fRsvdBits
  else if opNumber cmd = 1 ∧ cmd.getLsbD 1 = true then .fBadMode
  else if opNumber cmd = 5 ∧ cmd.toNat % 2 ^ 4 ≥ 0xB then .fBadReg
  else if opNumber cmd = 2 ∧ cmd.toNat % 2 ^ 28 = 0 then .fZeroLen
  else if (opNumber cmd = 2 ∨ opNumber cmd = 3 ∨ opNumber cmd = 4) ∧ r.fsm = .sIdle then .fNotStarted
  else if opNumber cmd = 2 ∧ r.mode = .monitorMode ∧
      (r.emitBits.toNat + r.w.toNat > 2 ^ 64 - 1 ∨ r.repBits.toNat + 8 * (cmd.toNat % 2 ^ 28) > 2 ^ 64 - 1) then .fTotalOvf
  else .fNone

/-- START with a legal mode operand (30_encoding.md R52). -/
abbrev IsStartWord (cmd : Word) : Prop := cmd = 0x10000000 ∨ cmd = 0x10000001

/-- At its next edge the block accepts the word `cmd`; `rest` is what the ports hold after that edge (30_encoding.md R54). -/
def Accepts (s : State) (cmd : Word) (rest : List PortInput) : Prop :=
  s.resetSeen = true ∧ s.resp = none ∧
    ∃ inp, s.inputs = inp :: rest ∧ inp.rst = false ∧ inp.cmdValid = true ∧ inp.cmdWord = cmd

/-! ### The invariant -/

/-- 10_state.md R24. -/
abbrev WidthAndCounterInRange (r : Regs) : Prop :=
  (r.fsm = .sIdle → r.w.toNat = 9 ∧ r.next.toNat = 257) ∧
    9 ≤ r.w.toNat ∧ r.w.toNat ≤ 16 ∧ 257 ≤ r.next.toNat ∧ r.next.toNat ≤ 2 ^ r.w.toNat

/-- 10_state.md R25. -/
abbrev WidthGrewOnlyAtCapacity (r : Regs) : Prop := 9 < r.w.toNat → 2 ^ (r.w.toNat - 1) < r.next.toNat

/-- 10_state.md R26. -/
abbrev AtCapacityExactly (r : Regs) : Prop :=
  Started r → (r.fsm = .sAtcap ↔ r.w.toNat = 16 ∧ r.next.toNat = 65536)

/-- 10_state.md R27. -/
abbrev ResetModeTracksNothing (r : Regs) : Prop :=
  r.mode = .resetMode → r.emitBits = 0 ∧ r.repBits = 0 ∧ r.baseValid = false ∧ r.baseEmit = 0 ∧ r.baseRep = 0

/-- 10_state.md R28. -/
abbrev BaselineOnlyAtCapacity (r : Regs) : Prop :=
  (r.baseValid = true →
    r.mode = .monitorMode ∧ r.w.toNat = 16 ∧ r.next.toNat = 65536 ∧
      r.baseEmit.toNat ≤ r.emitBits.toNat ∧ r.baseRep.toNat ≤ r.repBits.toNat) ∧
    (r.baseValid = false → r.baseEmit = 0 ∧ r.baseRep = 0)

/-- 10_state.md R29, with the same of the baseline, which is a copy of the totals (R21). -/
abbrev TotalsZeroTogether (r : Regs) : Prop :=
  (r.emitBits = 0 ↔ r.repBits = 0) ∧ r.repBits.toNat % 8 = 0 ∧ (r.baseEmit = 0 ↔ r.baseRep = 0) ∧ r.baseRep.toNat % 8 = 0

/-- 10_state.md R22 and R23: a fault is recorded exactly in S_FAULTED. -/
abbrev FaultRecordedExactlyWhenFaulted (r : Regs) : Prop :=
  (r.fsm = .sFaulted ↔ r.fcause ≠ .fNone) ∧ (r.fsm ≠ .sFaulted → r.fcmd = 0)

/-- In S_IDLE every register holds its reset value (10_state.md R38: nothing but START or a fault leaves S_IDLE, R80). -/
abbrev IdleIsReset (r : Regs) : Prop := r.fsm = .sIdle → r = State.reset.regs

/-- S_RESET holds from an O_RESET until the next EXTEND (10_state.md R13, 92_eei_decisions.md D11). -/
abbrev JustReset (r : Regs) : Prop := r.fsm = .sReset → r.w.toNat = 9 ∧ r.next.toNat = 258

/-- The register invariant: 10_state.md R22 to R29 together. -/
structure RegsInv (r : Regs) : Prop where
  range : WidthAndCounterInRange r
  grew : WidthGrewOnlyAtCapacity r
  atcap : AtCapacityExactly r
  resetMode : ResetModeTracksNothing r
  baseline : BaselineOnlyAtCapacity r
  totals : TotalsZeroTogether r
  fault : FaultRecordedExactlyWhenFaulted r
  idle : IdleIsReset r
  justReset : JustReset r

/-- A response carries a code only with RS_OK, and the code is assignable at the response's width (42_policy.md R81, R83). -/
abbrev ResponseInv (q : Response) : Prop :=
  ∀ c, q.code = some c → q.status = .rsOk ∧ 257 ≤ c.toNat ∧ c.toNat < 2 ^ q.w.toNat

/-- The invariant of the machine: the registers' and the pending response's. -/
structure Inv (s : State) : Prop where
  regs : RegsInv s.regs
  resp : ∀ q, s.resp = some q → ResponseInv q

/-- A list of commands is safe from `s` when every one of them is accepted and performed: none faults, none is rejected. -/
def SafeCommands (cmds : List Word) (s : State) : Prop :=
  ∃ qs t, issueAll cmds s = some (qs, t) ∧ qs.length = cmds.length ∧ ∀ q ∈ qs, q.status = .rsOk

/-- The responses the EXTENDs of a command list received, in order (42_policy.md R84). -/
def extendResponses : List Instr → List Response → List Response
  | i :: is, q :: qs => if i.op = .extend then q :: extendResponses is qs else extendResponses is qs
  | _, _ => []

/-- NOP, READ and PEEK, which change no register when accepted (20_memory.md R42). -/
def isObserver (i : Instr) : Bool := i.op = .nop ∨ i.op = .read ∨ i.op = .peek

end Sys2Proof.Safety
end

