-- ==== Sys2Proof/Certificates/Slice0/Obligations.lean ====
section
/-! DEFINITION. The statements for the provers, from the numbered rules of spec/. -/
open Sys2Proof Sys2Proof.Machine Sys2Proof.Safety

/-! ### Encoding -/

/-- Every command, its reserved bits included, decodes from its encoding (30_encoding.md R50 to R52). -/
def Obligations.DecodeOfEncode : Prop := ∀ i : Instr, decode (encode i) = .ok i

/-- A word that decodes is the encoding of what it decodes to: no bit of it is dropped (30_encoding.md R50 to R52). -/
def Obligations.EncodeOfDecode : Prop := ∀ (cmd : Word) (i : Instr), decode cmd = .ok i → encode i = cmd

/-- 30_encoding.md R52: the rows by match and mask, the reserved opcodes, a reserved bit set, and the fully legal words. -/
def Obligations.OpcodeMap : Prop :=
  ∀ cmd : Word,
    (cmd &&& 0xF0000000 = 0x00000000 → ∃ rsvd, decode cmd = .ok (.nop rsvd)) ∧
    (cmd &&& 0xF0000000 = 0x10000000 → ∃ rsvd mode, decode cmd = .ok (.start rsvd mode)) ∧
    (cmd &&& 0xF0000000 = 0x20000000 → ∃ len, decode cmd = .ok (.account len)) ∧
    (cmd &&& 0xF0000000 = 0x30000000 → ∃ rsvd, decode cmd = .ok (.extend rsvd)) ∧
    (cmd &&& 0xF0000000 = 0x40000000 → ∃ rsvd, decode cmd = .ok (.peek rsvd)) ∧
    (cmd &&& 0xF0000000 = 0x50000000 → ∃ rsvd reg, decode cmd = .ok (.read rsvd reg)) ∧
    (6 ≤ opNumber cmd → decode cmd = .error (.illegalOp (opField cmd)) ∧
      ∀ s : State, s.regs.fsm ≠ .sFaulted → runWord cmd s = .next (faulted .fIllegalOp cmd s)) ∧
    (opNumber cmd < 6 → cmd &&& rsvdMaskOf (opNumber cmd) ≠ 0 →
      ∀ s : State, s.regs.fsm ≠ .sFaulted → runWord cmd s = .next (faulted .fRsvdBits cmd s)) ∧
    ((∃ i : Instr, decode cmd = .ok i ∧ i.WellFormed) ↔
      cmd = 0x00000000 ∨ cmd = 0x10000000 ∨ cmd = 0x10000001 ∨
      (0x20000001 ≤ cmd.toNat ∧ cmd.toNat ≤ 0x2FFFFFFF) ∨ cmd = 0x30000000 ∨ cmd = 0x40000000 ∨
      (0x50000000 ≤ cmd.toNat ∧ cmd.toNat ≤ 0x5000000A))

/-- 30_encoding.md R51: which bits are the operands, and what each value selects. -/
def Obligations.OperandFields : Prop :=
  (∀ (cmd : Word) (rsvd : BitVec 26) (mode : BitVec 2), decode cmd = .ok (.start rsvd mode) →
    mode.toNat = cmd.toNat % 4 ∧
    (mode.toNat = 0 → modeOperand mode = some .resetMode) ∧ (mode.toNat = 1 → modeOperand mode = some .monitorMode) ∧
    (∀ m, modeOperand mode = some m → m.code = BitVec.ofBool (cmd.getLsbD 0) ∧
      (rsvd = 0 → ∀ s : State, ∃ t, runWord cmd s = .next t ∧ t.regs.mode = m)) ∧
    (2 ≤ mode.toNat → rsvd = 0 →
      ∀ s : State, s.regs.fsm ≠ .sFaulted → runWord cmd s = .next (faulted .fBadMode cmd s))) ∧
  (∀ (cmd : Word) (len : Len), decode cmd = .ok (.account len) →
    lenOperand len = cmd.toNat % 2 ^ 28 ∧
    (lenOperand len = 0 → ∀ s : State, s.regs.fsm ≠ .sFaulted → runWord cmd s = .next (faulted .fZeroLen cmd s)) ∧
    (lenOperand len ≠ 0 → 1 ≤ lenOperand len ∧ lenOperand len ≤ 2 ^ 28 - 1)) ∧
  (∀ (cmd : Word) (rsvd : BitVec 24) (reg : BitVec 4), decode cmd = .ok (.read rsvd reg) →
    reg.toNat = cmd.toNat % 16 ∧ (reg.toNat < 0xB → (regOperand reg).isSome = true) ∧
    (0xB ≤ reg.toNat → rsvd = 0 →
      ∀ s : State, s.regs.fsm ≠ .sFaulted → runWord cmd s = .next (faulted .fBadReg cmd s)))

/-- A few words of the spec's programs and vectors decode to what they stand for (95_test_vectors.md P1, P3, P4, V16, V41, V45). -/
def Obligations.SampleWords : Prop :=
  decode 0x00000000 = .ok (.nop 0) ∧ decode 0x10000001 = .ok (.start 0 1) ∧ decode 0x20000064 = .ok (.account 100) ∧
  decode 0x2FFFFFFF = .ok (.account 268435455) ∧ decode 0x30000000 = .ok (.extend 0) ∧ decode 0x40000000 = .ok (.peek 0) ∧
  decode 0x5000000B = .ok (.read 0 11) ∧ decode 0x50000010 = .ok (.read 1 0) ∧ decode 0x60000000 = .error (.illegalOp 6)

/-- The assembler's pseudo-instructions (45_host_sequences.md R85, R86). -/
def Obligations.PseudoInstructions : Prop :=
  ∀ n : Len,
    assemble (.estep n) = [0x20000000 ||| n.setWidth 32, 0x30000000] ∧
    assemble (.elast n) = [0x20000000 ||| n.setWidth 32]

/-! ### A step -/

/-- An edge that accepts a word which decodes to `i` is `exec i`, the ports' input consumed (30_encoding.md R58, 00_scope.md R8). -/
def Obligations.StepRunsDecoded : Prop :=
  ∀ (s : State) (cmd : Word) (rest : List PortInput) (i : Instr),
    Accepts s cmd rest → decode cmd = .ok i → step s = exec i { s with inputs := rest }

/-- An edge that accepts a word with a reserved opcode: F_ILLEGAL_OP, or rejected in S_FAULTED (60_exceptions.md R97, R102). -/
def Obligations.StepIllegalOpcode : Prop :=
  ∀ (s : State) (cmd : Word) (rest : List PortInput), Accepts s cmd rest → 6 ≤ opNumber cmd →
    (s.regs.fsm ≠ .sFaulted → step s = .next (faulted .fIllegalOp cmd { s with inputs := rest })) ∧
    (s.regs.fsm = .sFaulted → step s = .next (rejected { s with inputs := rest }))

/-- `Check(cmd)` (60_exceptions.md R98), read off the raw word: outside S_FAULTED a word faults with the first cause that applies and is
performed with RS_OK, no fault recorded, when none does. -/
def Obligations.CheckOnRawWords : Prop :=
  ∀ (cmd : Word) (s : State), s.regs.fsm ≠ .sFaulted →
    (checkWord cmd s.regs ≠ .fNone → runWord cmd s = .next (faulted (checkWord cmd s.regs) cmd s)) ∧
    (checkWord cmd s.regs = .fNone →
      ∃ (r : Regs) (q : Response), runWord cmd s = .next (answered s r q) ∧ q.status = .rsOk ∧ r.fsm ≠ .sFaulted)

/-- Fault entry (60_exceptions.md R100): a checked word with a cause leaves exactly this state and this response, and a word answered
RS_FAULT is one. In S_FAULTED only NOP, START and READ are checked (R102). -/
def Obligations.FaultEntry : Prop :=
  (∀ (cmd : Word) (s : State), checkWord cmd s.regs ≠ .fNone →
    (s.regs.fsm ≠ .sFaulted →
      ∃ t, runWord cmd s = .next t ∧ faultO t = true ∧
        t = answered s { s.regs with fcause := checkWord cmd s.regs, fcmd := cmd, fsm := .sFaulted }
          { status := .rsFault, outcome := .oNone, code := none, w := s.regs.w, data := 0 }) ∧
    (s.regs.fsm = .sFaulted → opNumber cmd = 0 ∨ opNumber cmd = 1 ∨ opNumber cmd = 5 →
      runWord cmd s =
        .next (answered s s.regs { status := .rsFault, outcome := .oNone, code := none, w := s.regs.w, data := 0 }))) ∧
  ∀ (cmd : Word) (s t : State) (q : Response), runWord cmd s = .next t → t.resp = some q → q.status = .rsFault →
    checkWord cmd s.regs ≠ .fNone ∧ q = { status := .rsFault, outcome := .oNone, code := none, w := s.regs.w, data := 0 } ∧
    (s.regs.fsm ≠ .sFaulted →
      t.regs = { s.regs with fcause := checkWord cmd s.regs, fcmd := cmd, fsm := .sFaulted }) ∧
    (s.regs.fsm = .sFaulted → t.regs = s.regs)

/-- Rejection in S_FAULTED (60_exceptions.md R102): reserved opcodes too; NOP, START and READ are checked and performed. -/
def Obligations.RejectionWhenFaulted : Prop :=
  ∀ (cmd : Word) (s : State), s.regs.fsm = .sFaulted →
    (opNumber cmd ≠ 0 → opNumber cmd ≠ 1 → opNumber cmd ≠ 5 → runWord cmd s = .next (rejected s)) ∧
    (opNumber cmd = 0 ∨ opNumber cmd = 1 ∨ opNumber cmd = 5 →
      (checkWord cmd s.regs ≠ .fNone → runWord cmd s = .next (faulted (checkWord cmd s.regs) cmd s)) ∧
      (checkWord cmd s.regs = .fNone →
        ∃ (r : Regs) (q : Response), runWord cmd s = .next (answered s r q) ∧ q.status = .rsOk ∧
          (opNumber cmd = 1 → r.fsm = .sGrowing ∧ r.fcause = .fNone ∧ r.fcmd = 0) ∧ (opNumber cmd ≠ 1 → r = s.regs)))

/-- Nested faults (60_exceptions.md R104): a NOP, START or READ that faults in S_FAULTED responds RS_FAULT and changes no register. -/
def Obligations.FirstFaultKept : Prop :=
  ∀ (cmd : Word) (s : State), s.regs.fsm = .sFaulted → opNumber cmd = 0 ∨ opNumber cmd = 1 ∨ opNumber cmd = 5 →
    checkWord cmd s.regs ≠ .fNone →
    runWord cmd s =
      .next (answered s s.regs { status := .rsFault, outcome := .oNone, code := none, w := s.regs.w, data := 0 })

/-- Leaving S_FAULTED (60_exceptions.md R103): only an accepted START, which begins a run and clears FCAUSE and FCMD, or `rst`. -/
def Obligations.OnlyStartOrResetLeavesFaulted : Prop :=
  ∀ s t : State, s.regs.fsm = .sFaulted → step s = .next t → t.regs.fsm ≠ .sFaulted →
    ∃ (inp : PortInput) (rest : List PortInput), s.inputs = inp :: rest ∧
      ((inp.rst = true ∧ t.regs = State.reset.regs) ∨
        (inp.rst = false ∧ inp.cmdValid = true ∧ IsStartWord inp.cmdWord ∧
          t.regs = { fsm := .sGrowing, mode := if inp.cmdWord = 0x10000001 then .monitorMode else .resetMode, w := 9, next := 257,
                     emitBits := 0, repBits := 0, baseValid := false, baseEmit := 0, baseRep := 0, fcause := .fNone, fcmd := 0 }))

/-! ### The ports -/

/-- Hardware reset (70_reset_and_hazards.md R114): at an edge with `rst = 1`, in any state. -/
def Obligations.HardwareReset : Prop :=
  ∀ (s : State) (inp : PortInput) (rest : List PortInput), s.inputs = inp :: rest → inp.rst = true →
    step s =
      .next { regs := { fsm := .sIdle, mode := .resetMode, w := 9, next := 257, emitBits := 0, repBits := 0, baseValid := false,
                        baseEmit := 0, baseRep := 0, fcause := .fNone, fcmd := 0 },
              resp := none, inputs := rest, resetSeen := true } ∧
    cmdReady true s = false ∧ respValid true s = false ∧
    (∀ t, step s = .next t → faultO t = false ∧ respValid false t = false ∧
      exec (.read 0 0) t = .next { t with resp := some (okResponse 9 0x00090000) })

/-- At most one command in flight (30_encoding.md R54, 70_reset_and_hazards.md R124): while a response is pending the block is not
ready and accepts nothing, the response holds steady until an edge with `resp_ready = 1`, and that edge only takes it. (That a command offered at that very edge is not
accepted is DEDUCED from R54, log 3. That `cmd_ready` is 1 right after that edge is the model's choice, log 1: R128 says only "in
finitely many cycles".) -/
def Obligations.OneCommandInFlight : Prop :=
  ∀ (s : State) (q : Response) (inp : PortInput) (rest : List PortInput),
    s.resp = some q → s.inputs = inp :: rest → inp.rst = false → s.resetSeen = true →
    cmdReady false s = false ∧ respValid false s = true ∧
    (inp.respReady = false → step s = .next { s with inputs := rest }) ∧
    (inp.respReady = true → step s = .next { s with inputs := rest, resp := none }) ∧
    (inp.respReady = true → ∀ t, step s = .next t → cmdReady false t = true)

/-- The response on the ports (30_encoding.md R54, R55): the code as `resp_code_valid` and `resp_code`, the rest as it is; a command
that is no EXTEND or PEEK answers O_NONE without a code; only READ answers data. -/
def Obligations.ResponseOnPorts : Prop :=
  (∀ (s : State) (q : Response), s.resp = some q →
    (outputs false s).respValid = true ∧
    ∃ ports, (outputs false s).response = some ports ∧
      ports.respStatus = q.status.code ∧ ports.respOutcome = q.outcome.code ∧ ports.respW = q.w ∧ ports.respData = q.data ∧
      (q.code = none → ports.respCodeValid = false ∧ ports.respCode = 0) ∧
      (∀ c, q.code = some c → ports.respCodeValid = true ∧ ports.respCode = c)) ∧
  (∀ (cmd : Word) (s t : State) (q : Response), runWord cmd s = .next t → t.resp = some q →
    (opNumber cmd ≠ 3 → opNumber cmd ≠ 4 → q.outcome = .oNone ∧ q.code = none) ∧ (opNumber cmd ≠ 5 → q.data = 0))

/-- No command, no change (60_exceptions.md R113): with no input left, or at an edge that offers nothing, every register is kept. (That
a step with no input left changes nothing is the model's choice, log 2. So is that an edge without `rst` and without a command keeps the
registers of a state that has seen no `rst`, log 4: R116 leaves those unspecified.) -/
def Obligations.StateRetained : Prop :=
  ∀ s : State,
    (s.inputs = [] → step s = .next s) ∧
    (∀ inp rest, s.inputs = inp :: rest → inp.rst = false → inp.cmdValid = false →
      ∃ t, step s = .next t ∧ t.regs = s.regs ∧ t.inputs = rest ∧ t.resetSeen = s.resetSeen)

/-- Progress (70_reset_and_hazards.md R128): every accepted command gets its response, and after a response is taken the block is ready
again. (The model's choice, log 1: "finitely many cycles" is the accepting edge itself, and the edge that takes the response.) -/
def Obligations.EveryCommandCompletes : Prop :=
  (∀ (s : State) (cmd : Word) (rest : List PortInput), Accepts s cmd rest →
    ∃ t q, step s = .next t ∧ t.resp = some q ∧ t.inputs = rest) ∧
  (∀ (s : State) (inp : PortInput) (rest : List PortInput), s.resetSeen = true → s.resp ≠ none → s.inputs = inp :: rest →
    inp.rst = false → inp.respReady = true → ∃ t, step s = .next t ∧ cmdReady false t = true ∧ t.regs = s.regs)

/-- The model's choice (log 4): before the first `rst` an offered command is refused and every other edge but `rst` changes nothing. -/
def Obligations.BeforeFirstReset : Prop :=
  ∀ (s : State) (inp : PortInput) (rest : List PortInput), s.resetSeen = false → s.inputs = inp :: rest → inp.rst = false →
    (inp.cmdValid = true → step s = .refused .beforeFirstReset) ∧
    (inp.cmdValid = false → step s = .next { s with inputs := rest })

/-- Issuing a command and taking its response is two steps of the machine (70_reset_and_hazards.md R124). That it is two, and not any
number of cycles, is the model's choice (log 1). -/
def Obligations.IssueIsTwoSteps : Prop :=
  ∀ (cmd : Word) (s : State), s.resetSeen = true → s.resp = none →
    ∃ q t, issue cmd s = some (q, t) ∧ t.resp = none ∧ t.inputs = s.inputs ∧
      Sys2Proof.core.run 2 { s with inputs := offer cmd :: take :: s.inputs } = .next t

/-! ### The six commands -/

/-- NOP (40_control.md R63): in every state. -/
def Obligations.NopDoes : Prop :=
  encode (.nop 0) = 0x00000000 ∧
  ∀ (s : State) (rsvd : BitVec 28),
    (rsvd = 0 → exec (.nop rsvd) s = .next { s with resp := some (okResponse s.regs.w 0) }) ∧
    (rsvd ≠ 0 → exec (.nop rsvd) s = .next (faulted .fRsvdBits (encode (.nop rsvd)) s))

/-- START (40_control.md R64): in every state, a fault cleared too. -/
def Obligations.StartDoes : Prop :=
  encode (.start 0 0) = 0x10000000 ∧ encode (.start 0 1) = 0x10000001 ∧
  ∀ (s : State) (rsvd : BitVec 26) (mode : BitVec 2),
    (rsvd = 0 → mode.toNat < 2 →
      exec (.start rsvd mode) s =
        .next { s with
          regs := { fsm := .sGrowing, mode := if mode = 0 then .resetMode else .monitorMode, w := 9, next := 257, emitBits := 0,
                    repBits := 0, baseValid := false, baseEmit := 0, baseRep := 0, fcause := .fNone, fcmd := 0 },
          resp := some (okResponse 9 0) }) ∧
    (rsvd ≠ 0 → exec (.start rsvd mode) s = .next (faulted .fRsvdBits (encode (.start rsvd mode)) s)) ∧
    (rsvd = 0 → 2 ≤ mode.toNat → exec (.start rsvd mode) s = .next (faulted .fBadMode (encode (.start rsvd mode)) s))

/-- READ (40_control.md R66): in every state, the register's value zero-extended, nothing changed. -/
def Obligations.ReadDoes : Prop :=
  ∀ (s : State) (rsvd : BitVec 24) (reg : BitVec 4),
    encode (.read 0 reg) = 0x50000000 ||| reg.setWidth 32 ∧
    (rsvd = 0 → reg.toNat < 0xB →
      ∃ v : Total, exec (.read rsvd reg) s = .next { s with resp := some (okResponse s.regs.w v) } ∧
        (reg = 0x0 → v.toNat = (statusWord s.regs).toNat) ∧
        (reg = 0x1 → v.toNat = s.regs.w.toNat) ∧
        (reg = 0x2 → v.toNat = 2 ^ s.regs.w.toNat) ∧
        (reg = 0x3 → v.toNat = s.regs.next.toNat) ∧
        (reg = 0x4 → v = s.regs.emitBits) ∧
        (reg = 0x5 → v = s.regs.repBits) ∧
        (reg = 0x6 → v = s.regs.baseEmit) ∧
        (reg = 0x7 → v = s.regs.baseRep) ∧
        (reg = 0x8 → v.toNat = s.regs.fcmd.toNat) ∧
        (reg = 0x9 → v = 256) ∧
        (reg = 0xA → v = 0x000A000B00081009)) ∧
    (rsvd ≠ 0 → exec (.read rsvd reg) s = .next (faulted .fRsvdBits (encode (.read rsvd reg)) s)) ∧
    (rsvd = 0 → 0xB ≤ reg.toNat → exec (.read rsvd reg) s = .next (faulted .fBadReg (encode (.read rsvd reg)) s))

/-- ACCOUNT (41_accounting.md R68): every case. -/
def Obligations.AccountDoes : Prop :=
  ∀ (s : State) (len : Len),
    encode (.account len) = 0x20000000 ||| len.setWidth 32 ∧
    (s.regs.fsm = .sFaulted → exec (.account len) s = .next (rejected s)) ∧
    (s.regs.fsm ≠ .sFaulted → len = 0 → exec (.account len) s = .next (faulted .fZeroLen (encode (.account len)) s)) ∧
    (s.regs.fsm = .sIdle → len ≠ 0 → exec (.account len) s = .next (faulted .fNotStarted (encode (.account len)) s)) ∧
    (Started s.regs → len ≠ 0 → s.regs.mode = .resetMode →
      exec (.account len) s = .next { s with resp := some (okResponse s.regs.w 0) }) ∧
    (Started s.regs → len ≠ 0 → s.regs.mode = .monitorMode →
      s.regs.emitBits.toNat + s.regs.w.toNat > 2 ^ 64 - 1 ∨ s.regs.repBits.toNat + 8 * len.toNat > 2 ^ 64 - 1 →
      exec (.account len) s = .next (faulted .fTotalOvf (encode (.account len)) s)) ∧
    (Started s.regs → len ≠ 0 → s.regs.mode = .monitorMode →
      s.regs.emitBits.toNat + s.regs.w.toNat ≤ 2 ^ 64 - 1 → s.regs.repBits.toNat + 8 * len.toNat ≤ 2 ^ 64 - 1 →
      ∃ e p : Total,
        e.toNat = s.regs.emitBits.toNat + s.regs.w.toNat ∧ p.toNat = s.regs.repBits.toNat + 8 * len.toNat ∧
        exec (.account len) s =
          .next { s with regs := { s.regs with emitBits := e, repBits := p }, resp := some (okResponse s.regs.w 0) })

/-- EXTEND (42_policy.md R76, by R71, R72, R74 and R75): every case, from every state. -/
def Obligations.ExtendDoes : Prop :=
  encode (.extend 0) = 0x30000000 ∧
  ∀ (s : State) (rsvd : BitVec 28),
    (s.regs.fsm = .sFaulted → exec (.extend rsvd) s = .next (rejected s)) ∧
    (s.regs.fsm ≠ .sFaulted → rsvd ≠ 0 → exec (.extend rsvd) s = .next (faulted .fRsvdBits (encode (.extend rsvd)) s)) ∧
    (s.regs.fsm = .sIdle → rsvd = 0 → exec (.extend rsvd) s = .next (faulted .fNotStarted (encode (.extend rsvd)) s)) ∧
    (Started s.regs → rsvd = 0 →
      (s.regs.next.toNat < 2 ^ s.regs.w.toNat →
        exec (.extend rsvd) s =
          .next (answered s
            { s.regs with
              next := s.regs.next + 1
              fsm := if s.regs.w.toNat = 16 ∧ (s.regs.next + 1).toNat = 65536 then .sAtcap else .sGrowing }
            { status := .rsOk, outcome := .oAssigned, code := some (s.regs.next.setWidth 16), w := s.regs.w, data := 0 })) ∧
      (2 ^ s.regs.w.toNat ≤ s.regs.next.toNat → s.regs.w.toNat < 16 →
        exec (.extend rsvd) s =
          .next (answered s
            { s.regs with
              w := s.regs.w + 1
              next := s.regs.next + 1
              fsm := if (s.regs.w + 1).toNat = 16 ∧ (s.regs.next + 1).toNat = 65536 then .sAtcap else .sGrowing }
            { status := .rsOk, outcome := .oGrew, code := some (s.regs.next.setWidth 16), w := s.regs.w + 1, data := 0 })) ∧
      (2 ^ s.regs.w.toNat ≤ s.regs.next.toNat → 16 ≤ s.regs.w.toNat →
        s.regs.mode = .resetMode ∨
          (s.regs.baseValid = true ∧
            10 * s.regs.baseRep.toNat * s.regs.emitBits.toNat > 11 * s.regs.baseEmit.toNat * s.regs.repBits.toNat) →
        exec (.extend rsvd) s =
          .next (answered s
            { s.regs with
              w := 9, next := 258, emitBits := 0, repBits := 0, baseValid := false, baseEmit := 0, baseRep := 0, fsm := .sReset }
            { status := .rsOk, outcome := .oReset, code := some 257, w := 9, data := 0 })) ∧
      (2 ^ s.regs.w.toNat ≤ s.regs.next.toNat → 16 ≤ s.regs.w.toNat → s.regs.mode = .monitorMode → s.regs.baseValid = false →
        exec (.extend rsvd) s =
          .next (answered s
            { s.regs with
              baseEmit := s.regs.emitBits
              baseRep := s.regs.repBits
              baseValid := true
              fsm := if s.regs.w.toNat = 16 ∧ s.regs.next.toNat = 65536 then .sAtcap else .sGrowing }
            { status := .rsOk, outcome := .oNoopBaseline, code := none, w := s.regs.w, data := 0 })) ∧
      (2 ^ s.regs.w.toNat ≤ s.regs.next.toNat → 16 ≤ s.regs.w.toNat → s.regs.mode = .monitorMode → s.regs.baseValid = true →
        10 * s.regs.baseRep.toNat * s.regs.emitBits.toNat ≤ 11 * s.regs.baseEmit.toNat * s.regs.repBits.toNat →
        exec (.extend rsvd) s =
          .next (answered s
            { s.regs with fsm := if s.regs.w.toNat = 16 ∧ s.regs.next.toNat = 65536 then .sAtcap else .sGrowing }
            { status := .rsOk, outcome := .oNoopKeep, code := none, w := s.regs.w, data := 0 })))

/-- PEEK (42_policy.md R77): answers what EXTEND would answer and changes no register; its `resp_w` differs from W exactly when the
outcome is O_GREW, or O_RESET with W ≠ W0. -/
def Obligations.PeekDoes : Prop :=
  encode (.peek 0) = 0x40000000 ∧
  ∀ (s : State) (rsvd : BitVec 28),
    (s.regs.fsm = .sFaulted → exec (.peek rsvd) s = .next (rejected s)) ∧
    (s.regs.fsm ≠ .sFaulted → rsvd ≠ 0 → exec (.peek rsvd) s = .next (faulted .fRsvdBits (encode (.peek rsvd)) s)) ∧
    (s.regs.fsm = .sIdle → rsvd = 0 → exec (.peek rsvd) s = .next (faulted .fNotStarted (encode (.peek rsvd)) s)) ∧
    (Started s.regs → rsvd = 0 →
      ∃ (t : State) (q : Response), exec (.extend 0) s = .next t ∧ t.resp = some q ∧ q.status = .rsOk ∧ q.data = 0 ∧
        exec (.peek rsvd) s = .next { s with resp := some q } ∧
        (q.w ≠ s.regs.w ↔ q.outcome = .oGrew ∨ (q.outcome = .oReset ∧ s.regs.w ≠ 9)))

/-! ### Registers -/

/-- STATUS (10_state.md R34): its fields, its reserved bits, and its value after reset and after START. -/
def Obligations.StatusLayout : Prop :=
  (∀ r : Regs,
    (statusWord r).toNat =
      r.fsm.code.toNat + 8 * r.mode.code.toNat + 16 * r.baseValid.toNat + 256 * r.fcause.code.toNat + 65536 * r.w.toNat) ∧
  statusWord State.reset.regs = 0x00090000 ∧
  (∀ s t, exec (.start 0 0) s = .next t → statusWord t.regs = 0x00090001) ∧
  (∀ s t, exec (.start 0 1) s = .next t → statusWord t.regs = 0x00090009)

/-- READ is free of side effects (40_control.md R67): every register and STATE unchanged, and a second READ answers the same. -/
def Obligations.ReadTwice : Prop :=
  ∀ (s : State) (reg : BitVec 4), reg.toNat < 0xB →
    ∃ q t, issueAll [encode (.read 0 reg), encode (.read 0 reg)] s = some ([q, q], t) ∧ t.regs = s.regs ∧ q.status = .rsOk

/-- MODE is written by an accepted START and by `rst` only (40_control.md R65, 10_state.md R14). -/
def Obligations.ModeWrittenOnlyByStart : Prop :=
  ∀ s t : State, step s = .next t → t.regs.mode ≠ s.regs.mode →
    ∃ inp rest, s.inputs = inp :: rest ∧ (inp.rst = true ∨ (inp.cmdValid = true ∧ IsStartWord inp.cmdWord))

/-- BASE_VALID (10_state.md R32): set only by an EXTEND with outcome O_NOOP_BASELINE, cleared only by START, by an EXTEND with outcome
O_RESET and by hardware reset. -/
def Obligations.BaseValidWrittenOnlyBy : Prop :=
  ∀ s t : State, step s = .next t → t.regs.baseValid ≠ s.regs.baseValid →
    ∃ inp rest, s.inputs = inp :: rest ∧
      ((t.regs.baseValid = true ∧ inp.rst = false ∧ inp.cmdValid = true ∧ inp.cmdWord = 0x30000000 ∧ ∃ q, t.resp = some q ∧ q.outcome = .oNoopBaseline) ∨
        (t.regs.baseValid = false ∧
          (inp.rst = true ∨ (inp.cmdValid = true ∧ IsStartWord inp.cmdWord) ∨
            (inp.cmdValid = true ∧ inp.cmdWord = 0x30000000 ∧ ∃ q, t.resp = some q ∧ q.outcome = .oReset))))

/-- FCAUSE and FCMD (10_state.md R22, R23): written on entry to S_FAULTED, cleared by START (and by `rst`), and by nothing else. -/
def Obligations.FaultRecordWrittenOnlyBy : Prop :=
  ∀ s t : State, step s = .next t → (t.regs.fcause ≠ s.regs.fcause ∨ t.regs.fcmd ≠ s.regs.fcmd) →
    ∃ inp rest, s.inputs = inp :: rest ∧
      ((s.regs.fsm ≠ .sFaulted ∧ t.regs.fsm = .sFaulted ∧ t.regs.fcmd = inp.cmdWord) ∨
        (t.regs.fcause = .fNone ∧ t.regs.fcmd = 0 ∧ (inp.rst = true ∨ (inp.cmdValid = true ∧ IsStartWord inp.cmdWord))))

/-! ### The totals and the threshold -/

/-- The totals are cumulative over the epoch (41_accounting.md R69): a command leaves them, adds to them (ACCOUNT) or clears them (START,
O_RESET); saving or keeping a baseline does not clear them. -/
def Obligations.TotalsCumulative : Prop :=
  ∀ (cmd : Word) (s t : State) (q : Response), runWord cmd s = .next t → t.resp = some q →
    (t.regs.emitBits = s.regs.emitBits ∧ t.regs.repBits = s.regs.repBits) ∨
    (opNumber cmd = 2 ∧ q.status = .rsOk ∧ t.regs.emitBits.toNat = s.regs.emitBits.toNat + s.regs.w.toNat ∧
      t.regs.repBits.toNat = s.regs.repBits.toNat + 8 * (cmd.toNat % 2 ^ 28)) ∨
    ((IsStartWord cmd ∨ (cmd = 0x30000000 ∧ q.outcome = .oReset)) ∧ t.regs.emitBits = 0 ∧ t.regs.repBits = 0)

/-- ACCOUNT in Reset mode (41_accounting.md R70): no state changes, the operand is still checked, S_IDLE faults in either mode, and in
every reachable state the tracker is 0. -/
def Obligations.AccountInResetMode : Prop :=
  ∀ s : State, s.regs.mode = .resetMode →
    (∀ len : Len, Started s.regs → len ≠ 0 → ∃ t, exec (.account len) s = .next t ∧ t.regs = s.regs) ∧
    (s.regs.fsm ≠ .sFaulted → exec (.account 0) s = .next (faulted .fZeroLen 0x20000000 s)) ∧
    (∀ (len : Len) (m : Mode), s.regs.fsm = .sIdle → len ≠ 0 →
      exec (.account len) { s with regs := { s.regs with mode := m } } =
        .next (faulted .fNotStarted (encode (.account len)) { s with regs := { s.regs with mode := m } })) ∧
    (Inv s → s.regs.emitBits = 0 ∧ s.regs.repBits = 0 ∧ s.regs.baseEmit = 0 ∧ s.regs.baseRep = 0 ∧ s.regs.baseValid = false)

/-- The threshold (42_policy.md R72): the exact integer test, strict, and the source's ratio-of-ratios where that is defined; every
product is below 2^136. -/
def Obligations.ThresholdIsRatio : Prop :=
  ∀ r : Regs,
    (exceeds Config.hw r = true ↔ 10 * r.baseRep.toNat * r.emitBits.toNat > 11 * r.baseEmit.toNat * r.repBits.toNat) ∧
    (0 < r.baseEmit.toNat → 0 < r.repBits.toNat →
      (exceeds Config.hw r = true ↔
        ((r.baseRep.toNat : ℚ) / r.baseEmit.toNat) / ((r.repBits.toNat : ℚ) / r.emitBits.toNat) > 11 / 10)) ∧
    10 * r.baseRep.toNat * r.emitBits.toNat < 2 ^ 136 ∧ 11 * r.baseEmit.toNat * r.repBits.toNat < 2 ^ 136

/-- The empty baseline (42_policy.md R73): it never exceeds, and in a reachable state no other operand of the test is zero. -/
def Obligations.EmptyBaseline : Prop :=
  ∀ r : Regs,
    (r.baseEmit = 0 → r.baseRep = 0 → exceeds Config.hw r = false) ∧
    (RegsInv r → r.baseEmit ≠ 0 → r.baseRep ≠ 0 ∧ r.emitBits ≠ 0 ∧ r.repBits ≠ 0)

/-- Width exhaustion without reclamation (42_policy.md R82): with a baseline kept in S_ATCAP, every EXTEND answers O_NOOP_KEEP, assigns
nothing and changes no register while the threshold is not exceeded, however many are issued; once it is, EXTEND answers O_RESET. -/
def Obligations.KeepsUntilExceeded : Prop :=
  ∀ s : State, RegsInv s.regs → s.regs.fsm = .sAtcap → s.regs.baseValid = true →
    (exceeds Config.hw s.regs = false → ∀ n : Nat,
      ∃ t, issueAll (List.replicate n extendWord) s =
          some (List.replicate n { status := .rsOk, outcome := .oNoopKeep, code := none, w := 16, data := 0 }, t) ∧
        t.regs = s.regs) ∧
    (exceeds Config.hw s.regs = true → ∃ q t, issue extendWord s = some (q, t) ∧ q.outcome = .oReset ∧ q.code = some 257)

/-! ### Whole-machine rules -/

/-- The invariant holds at reset (10_state.md R24 to R29). -/
def Obligations.InvAtReset : Prop := Inv State.reset

/-- Every step keeps the invariant (10_state.md R24 to R29). -/
def Obligations.StepKeepsInv : Prop := ∀ s t : State, Inv s → step s = .next t → Inv t

/-- The transition table of `lzw_width_state_machine` (42_policy.md R80), row by row. -/
def Obligations.FsmTransitionTable : Prop :=
  (∀ (s t : State) (inp : PortInput), edge inp s = .next t → inp.rst = true → t.regs.fsm = .sIdle) ∧
  (∀ (cmd : Word) (s t : State) (q : Response), Inv s → runWord cmd s = .next t → t.resp = some q →
    (IsStartWord cmd → q.status = .rsOk ∧ t.regs.fsm = .sGrowing) ∧
    (s.regs.fsm = .sIdle → opNumber cmd = 2 ∨ opNumber cmd = 3 ∨ opNumber cmd = 4 →
      t.regs.fsm = .sFaulted ∧ (∀ i : Instr, decode cmd = .ok i → i.WellFormed → t.regs.fcause = .fNotStarted)) ∧
    (q.status = .rsFault → t.regs.fsm = .sFaulted) ∧
    (s.regs.fsm = .sGrowing ∨ s.regs.fsm = .sReset → cmd = 0x30000000 →
      (q.outcome = .oAssigned ∨ q.outcome = .oGrew) ∧
      t.regs.fsm = if t.regs.w.toNat = 16 ∧ t.regs.next.toNat = 65536 then .sAtcap else .sGrowing) ∧
    (s.regs.fsm = .sAtcap → cmd = 0x30000000 →
      (q.outcome = .oReset ∧ t.regs.fsm = .sReset) ∨
      ((q.outcome = .oNoopBaseline ∨ q.outcome = .oNoopKeep) ∧ t.regs.fsm = .sAtcap)) ∧
    (s.regs.fsm = .sFaulted → ¬ IsStartWord cmd → t.regs.fsm = .sFaulted) ∧
    (s.regs.fsm = .sGrowing ∨ s.regs.fsm = .sAtcap ∨ s.regs.fsm = .sReset → q.status = .rsOk →
      opNumber cmd = 0 ∨ opNumber cmd = 5 ∨ opNumber cmd = 4 ∨ opNumber cmd = 2 → t.regs.fsm = s.regs.fsm) ∧
    (s.regs.fsm = .sIdle → q.status = .rsOk → opNumber cmd = 0 ∨ opNumber cmd = 5 → t.regs.fsm = .sIdle))

/-- Monotonic width (42_policy.md R79): a command keeps W, or adds one (O_GREW), or restores W0 (START, O_RESET); within a run W stays
between W0 and WMAX. -/
def Obligations.WidthMonotonic : Prop :=
  ∀ (cmd : Word) (s t : State) (q : Response), Inv s → runWord cmd s = .next t → t.resp = some q →
    9 ≤ t.regs.w.toNat ∧ t.regs.w.toNat ≤ 16 ∧
    (t.regs.w = s.regs.w ∨
      (q.outcome = .oGrew ∧ cmd = 0x30000000 ∧ t.regs.w.toNat = s.regs.w.toNat + 1) ∨
      ((IsStartWord cmd ∨ (cmd = 0x30000000 ∧ q.outcome = .oReset)) ∧ t.regs.w = 9))

/-- Every assigned code fits the width the EXTEND left, and so does the sentinel (42_policy.md R83); the sentinel and the alphabet are
never assigned. -/
def Obligations.AssignedCodeFits : Prop :=
  ∀ (s t : State) (q : Response), Inv s → runWord extendWord s = .next t → t.resp = some q →
    256 < 2 ^ t.regs.w.toNat ∧
    ∀ c, q.code = some c → 256 < c.toNat ∧ c.toNat < 2 ^ t.regs.w.toNat ∧ t.regs.next.toNat = c.toNat + 1

/-- Capacity consistency (42_policy.md R81): from a fresh table whose next code is `257 + a` (a = 0 after a START, a = 1 after an
O_RESET, whose own assignment is code 257), the j-th EXTEND that follows assigns code `257 + a + j`, as long as codes are left. -/
def Obligations.CodesAssignedInOrder : Prop :=
  ∀ (s : State) (a n : Nat), Started s.regs → s.regs.w = 9 → s.regs.next.toNat = 257 + a → a ≤ 1 → 257 + a + n ≤ 65536 →
    ∃ qs t, issueAll (List.replicate n extendWord) s = some (qs, t) ∧ t.regs.next.toNat = 257 + a + n ∧
      qs.map (fun q => q.code.map BitVec.toNat) = (List.range n).map (fun j => some (257 + a + j))

/-- The decision for every legal parameter set with WMAX at most 16 (00_scope.md R5, 42_policy.md R71): the code it names is
assignable at the width it names, is above the sentinel, and the width stays in range. (R5 allows WMAX up to 31. The limit 16 is the
model's choice of fixed register widths, log 5.) -/
def Obligations.DecisionInRangeForLegalParams : Prop :=
  ∀ (p : Config.Params) (r : Regs), p.Legal → p.wmax ≤ 16 → p.w0 ≤ r.w.toNat → r.w.toNat ≤ p.wmax →
    p.firstCode ≤ r.next.toNat → r.next.toNat ≤ 2 ^ r.w.toNat →
    p.w0 ≤ (decision p r).w.toNat ∧ (decision p r).w.toNat ≤ p.wmax ∧
    ∀ c, (decision p r).code = some c → p.sentinel < c.toNat ∧ c.toNat < 2 ^ (decision p r).w.toNat

/-- The values this hardware takes are legal (00_scope.md R5). -/
def Obligations.HardwareParamsLegal : Prop :=
  Config.hw.Legal ∧ Config.hw.firstCode = 257 ∧ Config.hw.sentinel = 256 ∧ Config.hw.l0 = 512 ∧ Config.hw.lmax = 65536

/-! ### Command lists and the hosts -/

/-- PEEK and EXTEND agree (42_policy.md R78), in every state: with only legal NOPs, READs and PEEKs between them, EXTEND answers the
outcome, code and width that PEEK answered. (That R78 is read of accepted commands is DEDUCED, log 15.) -/
def Obligations.PeekPredictsExtend : Prop :=
  ∀ (s : State) (between : List Instr), (∀ i ∈ between, i.WellFormed ∧ isObserver i = true) →
    ∃ p t qs u e v, issue peekWord s = some (p, t) ∧ issueAll (between.map encode) t = some (qs, u) ∧
      issue extendWord u = some (e, v) ∧ e.outcome = p.outcome ∧ e.code = p.code ∧ e.w = p.w

/-- Determinism (42_policy.md R84): two runs from the same state whose command lists agree once the legal NOPs, READs and PEEKs are
left out end with the same registers and give the same EXTEND responses. (In S_IDLE a PEEK faults and is no mere observer, R77. That R84 is
read of accepted NOPs, READs and PEEKs is DEDUCED, log 15.) -/
def Obligations.ObserversDoNotMatter : Prop :=
  ∀ (s : State) (is js : List Instr), s.regs.fsm ≠ .sIdle → (∀ i ∈ is, i.WellFormed) → (∀ j ∈ js, j.WellFormed) →
    is.filter (fun i => !isObserver i) = js.filter (fun j => !isObserver j) →
    ∃ qs t qs' t',
      issueAll (is.map encode) s = some (qs, t) ∧ issueAll (js.map encode) s = some (qs', t') ∧
      t.regs = t'.regs ∧ extendResponses is qs = extendResponses js qs'

/-- Synchronisation (45_host_sequences.md R93): without its PEEKs the decoder's command list is the encoder's, and from any two states
the two blocks end with the same registers. (The command lists are the model's reading of R88 and R90, log 13.) -/
def Obligations.DecoderFollowsEncoder : Prop :=
  ∀ (m : Mode) (ns : List Len),
    (decoderCommands m ns).filter (fun cmd => cmd ≠ peekWord) = encoderCommands m ns ∧
    ∀ s s' : State, ∃ qs t qs' t',
      issueAll (encoderCommands m ns) s = some (qs, t) ∧ issueAll (decoderCommands m ns) s' = some (qs', t') ∧ t.regs = t'.regs

/-- The canonical sequences never fault (60_exceptions.md R99): streams of fewer than 2^60 codes whose represented bits stay below
2^64, each code standing for at least one symbol. (The command lists are the model's reading of R88 and R90, log 13.) -/
def Obligations.CanonicalSequencesNeverFault : Prop :=
  ∀ (m : Mode) (ns : List Len) (s : State), ns.length < 2 ^ 60 → (∀ n ∈ ns, n ≠ 0) →
    8 * (ns.map BitVec.toNat).sum < 2 ^ 64 →
    SafeCommands (encoderCommands m ns) s ∧ SafeCommands (decoderCommands m ns) s

/-- The end-of-stream hazard's condition (45_host_sequences.md R95): the width a decoder's PEEK names differs from the W the encoder
writes the sentinel at exactly when the table is full and the decision is O_GREW or O_RESET. -/
def Obligations.SentinelWidthHazard : Prop :=
  ∀ s : State, Inv s → Started s.regs →
    ∃ p t, issue peekWord s = some (p, t) ∧
      (p.w ≠ s.regs.w ↔
        s.regs.next.toNat = 2 ^ s.regs.w.toNat ∧
          (s.regs.w.toNat < 16 ∨ s.regs.mode = .resetMode ∨ (s.regs.baseValid = true ∧ exceeds Config.hw s.regs = true)))

/-- The empty input (45_host_sequences.md R96): START alone, the tag and R in 9 bits, decoded to the empty output; for every pair of
tags and both bit orders. (The hosts are written as log 13 says.) -/
def Obligations.EmptyInput : Prop :=
  ∀ (o : Config.WireBitOrder) (tags : Config.ModeTags) (m : Mode) (s s' : State),
    encoderCommands m [] = [startWord m] ∧
    ∃ b, encodeHost o tags m [] s = some (b, closeChannel (putBits o 8 (modeTag tags m).toNat ++ putBits o 9 256)) ∧
      (decodeHost o tags (closeChannel (putBits o 8 (modeTag tags m).toNat ++ putBits o 9 256)) s').2 = none ∧
      (decodeHost o tags (closeChannel (putBits o 8 (modeTag tags m).toNat ++ putBits o 9 256)) s').1.output = [] ∧
      (decodeHost o tags (closeChannel (putBits o 8 (modeTag tags m).toNat ++ putBits o 9 256)) s').1.block.regs = b.regs
end

