-- ==== Sys2Proof/Laws/State.lean ====
section
/-! SUPPORT. One lemma per field per update of State, each true by rfl, so that no proof unfolds a record update. -/
namespace Sys2Proof.Machine

@[simp] theorem answer_regs (s : State) (a : Regs × Response) : (s.answer a).regs = a.1 := rfl
@[simp] theorem answer_resp (s : State) (a : Regs × Response) : (s.answer a).resp = some a.2 := rfl
@[simp] theorem answer_inputs (s : State) (a : Regs × Response) : (s.answer a).inputs = s.inputs := rfl
@[simp] theorem answer_resetSeen (s : State) (a : Regs × Response) : (s.answer a).resetSeen = s.resetSeen := rfl

@[simp] theorem takeResponse_regs (s : State) : (takeResponse s).regs = s.regs := rfl
@[simp] theorem takeResponse_resp (s : State) : (takeResponse s).resp = none := rfl
@[simp] theorem takeResponse_inputs (s : State) : (takeResponse s).inputs = s.inputs := rfl
@[simp] theorem takeResponse_resetSeen (s : State) : (takeResponse s).resetSeen = s.resetSeen := rfl

@[simp] theorem hardwareReset_regs (s : State) : (hardwareReset Config.hw s).regs = State.reset.regs := rfl
@[simp] theorem hardwareReset_resp (p : Config.Params) (s : State) : (hardwareReset p s).resp = none := rfl
@[simp] theorem hardwareReset_inputs (p : Config.Params) (s : State) : (hardwareReset p s).inputs = s.inputs := rfl
@[simp] theorem hardwareReset_resetSeen (p : Config.Params) (s : State) : (hardwareReset p s).resetSeen = true := rfl

@[simp] theorem offerNext_regs (s : State) (n w : Nat) : (offerNext s n w).regs = s.regs := rfl
@[simp] theorem offerNext_resp (s : State) (n w : Nat) : (offerNext s n w).resp = none := rfl
@[simp] theorem offerNext_resetSeen (s : State) (n w : Nat) : (offerNext s n w).resetSeen = true := rfl
@[simp] theorem offerNext_inputs (s : State) (n w : Nat) :
    (offerNext s n w).inputs = offer (BitVec.ofNat 32 (w % 2 ^ n)) :: s.inputs := rfl

end Sys2Proof.Machine

namespace Sys2Proof.Safety
open Sys2Proof.Machine

@[simp] theorem answered_regs (s : State) (r : Regs) (q : Response) : (answered s r q).regs = r := rfl
@[simp] theorem answered_resp (s : State) (r : Regs) (q : Response) : (answered s r q).resp = some q := rfl
@[simp] theorem answered_inputs (s : State) (r : Regs) (q : Response) : (answered s r q).inputs = s.inputs := rfl
@[simp] theorem answered_resetSeen (s : State) (r : Regs) (q : Response) : (answered s r q).resetSeen = s.resetSeen := rfl

/-- `State.answer` and the claims' `answered` are the same update. -/
theorem answer_eq_answered (s : State) (a : Regs × Response) : s.answer a = answered s a.1 a.2 := rfl

@[simp] theorem rejected_regs (s : State) : (rejected s).regs = s.regs := rfl
@[simp] theorem rejected_resp (s : State) :
    (rejected s).resp = some { status := .rsRejected, outcome := .oNone, code := none, w := s.regs.w, data := 0 } := rfl
@[simp] theorem faulted_resp (c : Cause) (cmd : Word) (s : State) :
    (faulted c cmd s).resp = some { status := .rsFault, outcome := .oNone, code := none, w := s.regs.w, data := 0 } := rfl

end Sys2Proof.Safety
end

