-- ==== Sys2Proof/Laws/Decode.lean ====
section
/-! SUPPORT. The fields of an encoded word, and the decoder read through the opcode field. -/
namespace Sys2Proof

/-- The opcode field of a word as a number is its top four bits. -/
theorem opField_toNat (cmd : Word) : (opField cmd).toNat = Safety.opNumber cmd := by
  have h := cmd.isLt
  simp only [opField, Safety.opNumber, BitVec.extractLsb'_toNat, Nat.shiftRight_eq_div_pow]
  omega

/-- An opcode field is a given number exactly when the word's top four bits are. -/
theorem opField_eq_iff (cmd : Word) (k : BitVec 4) : opField cmd = k ↔ Safety.opNumber cmd = k.toNat := by
  rw [← opField_toNat]; exact BitVec.toNat_inj.symm

/-- What a decoded word is, by its opcode number. -/
theorem decode_cases (cmd : Word) :
    (Safety.opNumber cmd = 0 ∧ decode cmd = .ok (.nop (cmd.extractLsb' 0 28))) ∨
    (Safety.opNumber cmd = 1 ∧ decode cmd = .ok (.start (cmd.extractLsb' 2 26) (cmd.extractLsb' 0 2))) ∨
    (Safety.opNumber cmd = 2 ∧ decode cmd = .ok (.account (cmd.extractLsb' 0 28))) ∨
    (Safety.opNumber cmd = 3 ∧ decode cmd = .ok (.extend (cmd.extractLsb' 0 28))) ∨
    (Safety.opNumber cmd = 4 ∧ decode cmd = .ok (.peek (cmd.extractLsb' 0 28))) ∨
    (Safety.opNumber cmd = 5 ∧ decode cmd = .ok (.read (cmd.extractLsb' 4 24) (cmd.extractLsb' 0 4))) ∨
    (6 ≤ Safety.opNumber cmd ∧ decode cmd = .error (.illegalOp (opField cmd))) := by
  have hlt : Safety.opNumber cmd < 16 := by rw [← opField_toNat]; exact (opField cmd).isLt
  unfold decode
  simp only [opField_eq_iff]
  generalize Safety.opNumber cmd = n at *
  interval_cases n <;> simp

/-- The value of a command's encoding, by its fields. -/
theorem encode_toNat (i : Instr) :
    (encode i).toNat =
      match i with
      | .nop rsvd => rsvd.toNat
      | .start rsvd mode => 0x10000000 + 4 * rsvd.toNat + mode.toNat
      | .account len => 0x20000000 + len.toNat
      | .extend rsvd => 0x30000000 + rsvd.toNat
      | .peek rsvd => 0x40000000 + rsvd.toNat
      | .read rsvd reg => 0x50000000 + 16 * rsvd.toNat + reg.toNat := by
  have app : ∀ {n m : Nat} (x : BitVec n) (y : BitVec m), (x ++ y).toNat = x.toNat * 2 ^ m + y.toNat := by
    intro n m x y
    rw [BitVec.toNat_append, ← Nat.shiftLeft_add_eq_or_of_lt y.isLt, Nat.shiftLeft_eq]
  cases i <;> simp only [encode] <;> rw [app] <;> (try rw [app]) <;> simp <;> omega

end Sys2Proof
end

