-- ==== Sys2Proof/Laws/Ops.lean ====
section
/-! SUPPORT. What a command can do, said once: exec, runWord and issue as one pure function on the registers, and its three cases
(rejected, faulted, performed). Later proofs cite these and do not unfold exec. -/
namespace Sys2Proof.Machine

open Sys2Proof.Safety

/-- A command's own effect when nothing stops it. -/
def effect (i : Instr) (r : Regs) : Regs × Response :=
  match i with
  | .nop _ => (r, respondOk r 0)
  | .start _ mode => startBody Config.hw mode r
  | .account len => accountBody Config.hw len r
  | .extend _ => extendBody Config.hw r
  | .peek _ => peekBody Config.hw r
  | .read _ reg => readBody Config.hw reg r

/-- What the block does with a command, as a function of the registers alone (00_scope.md R8). -/
def reply (i : Instr) (r : Regs) : Regs × Response :=
  if r.fsm = .sFaulted ∧ performedWhenFaulted i.op = false then reject r
  else if check Config.hw i r = .fNone then effect i r
  else takeFault (check Config.hw i r) (encode i) r

/-- The same for any word. -/
def replyWord (cmd : Word) (r : Regs) : Regs × Response :=
  match decode cmd with
  | .ok i => reply i r
  | .error _ => if r.fsm = .sFaulted then reject r else takeFault .fIllegalOp cmd r

/-- Every arm of exec is `reply`. -/
theorem exec_eq (i : Instr) (s : State) : exec i s = .next (s.answer (reply i s.regs)) := by
  cases i <;> rfl

/-- An accepted word is `replyWord`. -/
theorem runWord_eq (cmd : Word) (s : State) : runWord cmd s = .next (s.answer (replyWord cmd s.regs)) := by
  unfold runWord replyWord
  cases h : decode cmd with
  | ok i => exact exec_eq i s
  | error e => cases e; rfl

/-- An issued command always gets its response, and its response is taken. -/
theorem issue_eq (cmd : Word) (s : State) :
    issue cmd s = some ((replyWord cmd s.regs).2, { s with regs := (replyWord cmd s.regs).1, resp := none }) := by
  unfold issue
  rw [runWord_eq]
  rfl

/-- A list of commands, one `replyWord` after another. -/
def replies : List Word → Regs → List Response × Regs
  | [], r => ([], r)
  | cmd :: cmds, r =>
    let a := replyWord cmd r
    let b := replies cmds a.1
    (a.2 :: b.1, b.2)

@[simp] theorem replies_nil (r : Regs) : replies [] r = ([], r) := rfl
@[simp] theorem replies_cons (cmd : Word) (cmds : List Word) (r : Regs) :
    replies (cmd :: cmds) r =
      ((replyWord cmd r).2 :: (replies cmds (replyWord cmd r).1).1, (replies cmds (replyWord cmd r).1).2) := rfl

/-- Issuing a list of commands always succeeds, with the responses and registers of `replies`. -/
theorem issueAll_eq (cmds : List Word) (s : State) :
    ∃ t, issueAll cmds s = some ((replies cmds s.regs).1, t) ∧ t.regs = (replies cmds s.regs).2 := by
  induction cmds generalizing s with
  | nil => exact ⟨s, rfl, rfl⟩
  | cons cmd cmds ih =>
    obtain ⟨t, h, ht⟩ := ih { s with regs := (replyWord cmd s.regs).1, resp := none }
    exact ⟨t, by simp only [issueAll, issue_eq, h]; rfl, ht⟩

/-- One response per command (30_encoding.md R54). -/
theorem replies_length (cmds : List Word) (r : Regs) : (replies cmds r).1.length = cmds.length := by
  induction cmds generalizing r with
  | nil => rfl
  | cons cmd cmds ih => simp [ih]

/-- Command lists compose. -/
theorem replies_append (as bs : List Word) (r : Regs) :
    replies (as ++ bs) r = ((replies as r).1 ++ (replies bs (replies as r).2).1, (replies bs (replies as r).2).2) := by
  induction as generalizing r with
  | nil => rfl
  | cons cmd cmds ih => simp [ih]

/-- The claims' `faulted` is fault entry. -/
theorem answer_takeFault (c : Cause) (cmd : Word) (s : State) : s.answer (takeFault c cmd s.regs) = faulted c cmd s := by
  unfold takeFault faulted
  split <;> rfl

/-- The claims' `rejected` is the rejection. -/
theorem answer_reject (s : State) : s.answer (reject s.regs) = rejected s := rfl

/-- Every way a command ends. -/
theorem reply_cases (i : Instr) (r : Regs) :
    (r.fsm = .sFaulted ∧ performedWhenFaulted i.op = false ∧ reply i r = reject r) ∨
    ((r.fsm = .sFaulted → performedWhenFaulted i.op = true) ∧ check Config.hw i r ≠ .fNone ∧
      reply i r = takeFault (check Config.hw i r) (encode i) r) ∨
    ((r.fsm = .sFaulted → performedWhenFaulted i.op = true) ∧ check Config.hw i r = .fNone ∧ reply i r = effect i r) := by
  unfold reply
  by_cases h : r.fsm = .sFaulted ∧ performedWhenFaulted i.op = false
  · simp [h]
  · have h' : r.fsm = .sFaulted → performedWhenFaulted i.op = true := by
      intro hf; by_contra hp; exact h ⟨hf, by simpa using hp⟩
    by_cases hc : check Config.hw i r = .fNone
    · exact .inr (.inr ⟨h', hc, by simp [h, hc]⟩)
    · exact .inr (.inl ⟨h', hc, by simp [h, hc]⟩)

/-- Check passes exactly for a legal command, a run in progress where one is needed, and totals that fit. -/
theorem check_eq_none_iff (p : Config.Params) (i : Instr) (r : Regs) :
    check p i r = .fNone ↔ i.WellFormed ∧ (needsRun i.op = true → r.fsm ≠ .sIdle) ∧ overflows p i r = false := by
  unfold check Instr.WellFormed Instr.wellFormed
  cases h1 : i.reservedClear <;> cases h2 : i.modeLegal <;> cases h3 : i.regLegal <;> cases h4 : i.lenLegal <;> simp
  by_cases h5 : needsRun i.op = true ∧ r.fsm = .sIdle
  · simp [h5]
  · simp only [h5, if_false]
    cases h6 : overflows p i r <;> simp
    intro h7 h8; exact h5 ⟨h7, h8⟩

/-! ### The causes of Check in their order (60_exceptions.md R98), one lemma each -/

theorem check_of_reserved {p : Config.Params} {i : Instr} {r : Regs} (h : i.reservedClear = false) :
    check p i r = .fRsvdBits := by simp [check, h]

theorem check_of_mode {p : Config.Params} {i : Instr} {r : Regs} (h1 : i.reservedClear = true) (h : i.modeLegal = false) :
    check p i r = .fBadMode := by simp [check, h1, h]

theorem check_of_reg {p : Config.Params} {i : Instr} {r : Regs} (h1 : i.reservedClear = true) (h2 : i.modeLegal = true)
    (h : i.regLegal = false) : check p i r = .fBadReg := by simp [check, h1, h2, h]

theorem check_of_len {p : Config.Params} {i : Instr} {r : Regs} (h1 : i.reservedClear = true) (h2 : i.modeLegal = true)
    (h3 : i.regLegal = true) (h : i.lenLegal = false) : check p i r = .fZeroLen := by simp [check, h1, h2, h3, h]

theorem wellFormed_iff (i : Instr) :
    i.WellFormed ↔ i.reservedClear = true ∧ i.modeLegal = true ∧ i.regLegal = true ∧ i.lenLegal = true := by
  simp [Instr.WellFormed, Instr.wellFormed, and_assoc]

theorem check_of_idle {p : Config.Params} {i : Instr} {r : Regs} (h : i.WellFormed) (hn : needsRun i.op = true)
    (hf : r.fsm = .sIdle) : check p i r = .fNotStarted := by
  obtain ⟨h1, h2, h3, h4⟩ := (wellFormed_iff i).1 h
  simp [check, h1, h2, h3, h4, hn, hf]

theorem check_of_overflow {p : Config.Params} {i : Instr} {r : Regs} (h : i.WellFormed) (hf : r.fsm ≠ .sIdle)
    (ho : overflows p i r = true) : check p i r = .fTotalOvf := by
  obtain ⟨h1, h2, h3, h4⟩ := (wellFormed_iff i).1 h
  simp [check, h1, h2, h3, h4, hf, ho]

/-! ### exec by its three cases -/

/-- A command rejected in S_FAULTED. -/
theorem exec_of_rejected {i : Instr} {s : State} (hf : s.regs.fsm = .sFaulted) (hp : performedWhenFaulted i.op = false) :
    exec i s = .next (rejected s) := by
  rw [exec_eq]
  simp [reply, hf, hp, answer_reject]

/-- A command that faults. -/
theorem exec_of_fault {i : Instr} {s : State} {c : Cause} (hp : s.regs.fsm = .sFaulted → performedWhenFaulted i.op = true)
    (h : check Config.hw i s.regs = c) (hc : c ≠ .fNone) : exec i s = .next (faulted c (encode i) s) := by
  rw [exec_eq]
  rcases reply_cases i s.regs with ⟨h1, h2, -⟩ | ⟨-, -, h3⟩ | ⟨-, h2, -⟩
  · simp [hp h1] at h2
  · rw [h3, h, answer_takeFault]
  · exact absurd (h ▸ h2) hc

/-- A command that is performed. -/
theorem exec_of_performed {i : Instr} {s : State} (hp : s.regs.fsm = .sFaulted → performedWhenFaulted i.op = true)
    (h : check Config.hw i s.regs = .fNone) : exec i s = .next (s.answer (effect i s.regs)) := by
  rw [exec_eq]
  rcases reply_cases i s.regs with ⟨h1, h2, -⟩ | ⟨-, h2, -⟩ | ⟨-, -, h3⟩
  · simp [hp h1] at h2
  · exact absurd h h2
  · rw [h3]

end Sys2Proof.Machine
end

