-- ==== Sys2Proof/Laws/Policy.lean ====
section
/-! SUPPORT. The five cases of an EXTEND (42_policy.md R71, R74, R75), each with its condition, its registers and its decision. -/
namespace Sys2Proof.Machine

open Sys2Proof.Safety

@[simp] theorem hw_r : Config.hw.r = 256 := rfl
@[simp] theorem hw_w0 : Config.hw.w0 = 9 := rfl
@[simp] theorem hw_wmax : Config.hw.wmax = 16 := rfl
@[simp] theorem hw_symbolBits : Config.hw.symbolBits = 8 := rfl
@[simp] theorem hw_thrNum : Config.hw.thrNum = 11 := rfl
@[simp] theorem hw_thrDen : Config.hw.thrDen = 10 := rfl
@[simp] theorem hw_firstCode : Config.hw.firstCode = 257 := rfl
@[simp] theorem hw_sentinel : Config.hw.sentinel = 256 := rfl
@[simp] theorem hw_lmax : Config.hw.lmax = 65536 := rfl

@[simp] theorem lenOperand_eq (len : Len) : lenOperand len = len.toNat := by
  have h := len.isLt
  simp only [lenOperand, BitVec.toNat_setWidth]
  omega

/-- The decision on a table with a code left. -/
theorem decision_assigned {p : Config.Params} {r : Regs} (h : r.next.toNat < 2 ^ r.w.toNat) :
    decision p r = { outcome := .oAssigned, code := some r.next, w := r.w } := by
  simp [decision, capacity, h]

/-- The decision on a full table that can grow. -/
theorem decision_grew {p : Config.Params} {r : Regs} (h : 2 ^ r.w.toNat ≤ r.next.toNat) (hw : r.w.toNat < p.wmax) :
    decision p r = { outcome := .oGrew, code := some r.next, w := r.w + 1 } := by
  simp [decision, capacity, Nat.not_lt.mpr h, hw]

/-- The decision on a full table at WMAX when the mode reclaims. -/
theorem decision_reset {p : Config.Params} {r : Regs} (h : 2 ^ r.w.toNat ≤ r.next.toNat) (hw : p.wmax ≤ r.w.toNat)
    (hr : r.mode = .resetMode ∨ (r.baseValid = true ∧ exceeds p r = true)) : decision p r = resetDecision p := by
  simp only [decision, capacity, Nat.not_lt.mpr h, Nat.not_lt.mpr hw, if_false]
  rcases hr with hr | ⟨hb, he⟩
  · simp [hr]
  · by_cases hm : r.mode = .resetMode <;> simp [hm, hb, he]

/-- The decision on a full table at WMAX, Monitor mode, no baseline. -/
theorem decision_baseline {p : Config.Params} {r : Regs} (h : 2 ^ r.w.toNat ≤ r.next.toNat) (hw : p.wmax ≤ r.w.toNat)
    (hm : r.mode = .monitorMode) (hb : r.baseValid = false) :
    decision p r = { outcome := .oNoopBaseline, code := none, w := r.w } := by
  simp [decision, capacity, Nat.not_lt.mpr h, Nat.not_lt.mpr hw, hm, hb]

/-- The decision on a full table at WMAX, Monitor mode, the baseline kept. -/
theorem decision_keep {p : Config.Params} {r : Regs} (h : 2 ^ r.w.toNat ≤ r.next.toNat) (hw : p.wmax ≤ r.w.toNat)
    (hm : r.mode = .monitorMode) (hb : r.baseValid = true) (he : exceeds p r = false) :
    decision p r = { outcome := .oNoopKeep, code := none, w := r.w } := by
  simp [decision, capacity, Nat.not_lt.mpr h, Nat.not_lt.mpr hw, hm, hb, he]

/-- The conditions of the five decisions leave nothing out. -/
theorem decision_conditions (p : Config.Params) (r : Regs) :
    r.next.toNat < 2 ^ r.w.toNat ∨
    (2 ^ r.w.toNat ≤ r.next.toNat ∧ r.w.toNat < p.wmax) ∨
    (2 ^ r.w.toNat ≤ r.next.toNat ∧ p.wmax ≤ r.w.toNat ∧
      (r.mode = .resetMode ∨ (r.baseValid = true ∧ exceeds p r = true))) ∨
    (2 ^ r.w.toNat ≤ r.next.toNat ∧ p.wmax ≤ r.w.toNat ∧ r.mode = .monitorMode ∧ r.baseValid = false) ∨
    (2 ^ r.w.toNat ≤ r.next.toNat ∧ p.wmax ≤ r.w.toNat ∧ r.mode = .monitorMode ∧ r.baseValid = true ∧
      exceeds p r = false) := by
  rcases Nat.lt_or_ge r.next.toNat (2 ^ r.w.toNat) with h | h
  · exact .inl h
  · rcases Nat.lt_or_ge r.w.toNat p.wmax with hw | hw
    · exact .inr (.inl ⟨h, hw⟩)
    · cases hm : r.mode <;> cases hb : r.baseValid <;> cases he : exceeds p r <;> simp [h, hw]

/-- The registers after O_ASSIGNED. -/
theorem extendRegs_assigned {p : Config.Params} {r : Regs} (h : r.next.toNat < 2 ^ r.w.toNat) :
    extendRegs p r =
      { r with
        next := r.next + 1
        fsm := if r.w.toNat = p.wmax ∧ (r.next + 1).toNat = p.lmax then .sAtcap else .sGrowing } := by
  simp [extendRegs, decision_assigned h, applyDecision, nextFsm]

/-- The registers after O_GREW. -/
theorem extendRegs_grew {p : Config.Params} {r : Regs} (h : 2 ^ r.w.toNat ≤ r.next.toNat) (hw : r.w.toNat < p.wmax) :
    extendRegs p r =
      { r with
        w := r.w + 1
        next := r.next + 1
        fsm := if (r.w + 1).toNat = p.wmax ∧ (r.next + 1).toNat = p.lmax then .sAtcap else .sGrowing } := by
  simp [extendRegs, decision_grew h hw, applyDecision, nextFsm]

/-- The registers after O_RESET, on this hardware. -/
theorem extendRegs_reset {r : Regs} (h : 2 ^ r.w.toNat ≤ r.next.toNat) (hw : Config.hw.wmax ≤ r.w.toNat)
    (hr : r.mode = .resetMode ∨ (r.baseValid = true ∧ exceeds Config.hw r = true)) :
    extendRegs Config.hw r =
      { r with
        w := 9, next := 258, emitBits := 0, repBits := 0, baseValid := false, baseEmit := 0, baseRep := 0, fsm := .sReset } := by
  simp [extendRegs, decision_reset h hw hr, resetDecision, applyDecision, nextFsm]

/-- The registers after O_NOOP_BASELINE. -/
theorem extendRegs_baseline {p : Config.Params} {r : Regs} (h : 2 ^ r.w.toNat ≤ r.next.toNat) (hw : p.wmax ≤ r.w.toNat)
    (hm : r.mode = .monitorMode) (hb : r.baseValid = false) :
    extendRegs p r =
      { r with
        baseEmit := r.emitBits
        baseRep := r.repBits
        baseValid := true
        fsm := if r.w.toNat = p.wmax ∧ r.next.toNat = p.lmax then .sAtcap else .sGrowing } := by
  simp [extendRegs, decision_baseline h hw hm hb, applyDecision, nextFsm]

/-- The registers after O_NOOP_KEEP. -/
theorem extendRegs_keep {p : Config.Params} {r : Regs} (h : 2 ^ r.w.toNat ≤ r.next.toNat) (hw : p.wmax ≤ r.w.toNat)
    (hm : r.mode = .monitorMode) (hb : r.baseValid = true) (he : exceeds p r = false) :
    extendRegs p r =
      { r with fsm := if r.w.toNat = p.wmax ∧ r.next.toNat = p.lmax then .sAtcap else .sGrowing } := by
  simp [extendRegs, decision_keep h hw hm hb he, applyDecision, nextFsm]

/-- The width an EXTEND leaves is the width its decision names: `W` here equals `d.w` (42_policy.md R76). -/
theorem extendRegs_w (p : Config.Params) (r : Regs) : (extendRegs p r).w = (decision p r).w := by
  rcases decision_conditions p r with h | ⟨h, hw⟩ | ⟨h, hw, hr⟩ | ⟨h, hw, hm, hb⟩ | ⟨h, hw, hm, hb, he⟩
  · simp [extendRegs_assigned h, decision_assigned h]
  · simp [extendRegs_grew h hw, decision_grew h hw]
  · simp [extendRegs, decision_reset h hw hr, resetDecision, applyDecision]
  · simp [extendRegs_baseline h hw hm hb, decision_baseline h hw hm hb]
  · simp [extendRegs_keep h hw hm hb he, decision_keep h hw hm hb he]

/-- EXTEND reports what PEEK reports (42_policy.md R76, R77). -/
theorem extendBody_resp (p : Config.Params) (r : Regs) : (extendBody p r).2 = (peekBody p r).2 := by
  simp [extendBody, peekBody, extendRegs_w]

/-- No EXTEND writes MODE, FCAUSE or FCMD (42_policy.md R74, R119 of 70_reset_and_hazards.md). -/
theorem extendRegs_keeps (p : Config.Params) (r : Regs) :
    (extendRegs p r).mode = r.mode ∧ (extendRegs p r).fcause = r.fcause ∧ (extendRegs p r).fcmd = r.fcmd := by
  simp only [extendRegs]
  cases (decision p r).outcome <;> simp [applyDecision]

end Sys2Proof.Machine
end

