-- ==== Sys2Proof/Laws/Interface.lean ====
section
/-! SUPPORT. What a step can do, said once (30_encoding.md R54, 70_reset_and_hazards.md R114). -/
namespace Sys2Proof.Machine

open Sys2Proof.Safety

/-- An edge that accepts a word. -/
theorem step_of_accepts {s : State} {cmd : Word} {rest : List PortInput} (h : Accepts s cmd rest) :
    step s = .next (State.answer { s with inputs := rest } (replyWord cmd s.regs)) := by
  obtain ⟨hs, hr, inp, hi, h1, h2, rfl⟩ := h
  simp [step, nextEdge, hi, edge, h1, hs, hr, h2, runWord_eq]

/-- Every step that answers a next state: the block waits, is reset, has its response taken or kept, sees no command, or performs one. -/
theorem step_cases {s t : State} (h : step s = .next t) :
    (s.inputs = [] ∧ t = s) ∨
    (∃ inp rest, s.inputs = inp :: rest ∧ inp.rst = true ∧ t = hardwareReset Config.hw { s with inputs := rest }) ∨
    (∃ inp rest, s.inputs = inp :: rest ∧ inp.rst = false ∧
      (t = { s with inputs := rest } ∨ t = takeResponse { s with inputs := rest })) ∨
    (∃ inp rest, s.inputs = inp :: rest ∧ inp.rst = false ∧ inp.cmdValid = true ∧ Accepts s inp.cmdWord rest ∧
      t = State.answer { s with inputs := rest } (replyWord inp.cmdWord s.regs)) := by
  unfold step nextEdge at h
  split at h
  · exact .inl ⟨by assumption, by cases h; rfl⟩
  · rename_i inp rest hi
    unfold edge at h
    split at h
    · rename_i hr
      cases h
      exact .inr (.inl ⟨inp, rest, hi, hr, rfl⟩)
    · rename_i hr
      have hr : inp.rst = false := by simpa using hr
      split at h
      · split at h
        · cases h
        · cases h
          exact .inr (.inr (.inl ⟨inp, rest, hi, hr, .inl rfl⟩))
      · rename_i hs
        split at h
        · cases h
          refine .inr (.inr (.inl ⟨inp, rest, hi, hr, ?_⟩))
          split
          · exact .inr rfl
          · exact .inl rfl
        · rename_i hp
          split at h
          · rename_i hv
            rw [runWord_eq] at h
            cases h
            exact .inr (.inr (.inr ⟨inp, rest, hi, hr, hv,
              ⟨by simpa using hs, by simpa using hp, inp, hi, hr, hv, rfl⟩, rfl⟩))
          · cases h
            exact .inr (.inr (.inl ⟨inp, rest, hi, hr, .inl rfl⟩))

/-- A step never stops with a fault, and refuses only a command offered before the first reset. -/
theorem step_refused {s : State} {e : Refusal} (h : step s = .refused e) : e = .beforeFirstReset ∧ s.resetSeen = false := by
  unfold step nextEdge at h
  split at h
  · cases h
  · unfold edge at h
    split at h
    · cases h
    · split at h
      · rename_i hs
        split at h
        · cases h; exact ⟨rfl, hs⟩
        · cases h
      · split at h
        · cases h
        · split at h
          · rw [runWord_eq] at h; cases h
          · cases h

end Sys2Proof.Machine
end

