-- ==== Sys2Proof/Laws/PerInstr.lean ====
section
/-! SUPPORT. Per-instruction laws: the family OpcodeField, the opcode bits of every command's encoding (30_encoding.md R49, R52). -/
namespace Sys2Proof.Laws

/-- The opcode field of a command's word is the command's row of the opcode map, whatever its operands and reserved bits. -/
def OpcodeField.Statement (i : Instr) : Prop := opField (encode i) = i.op.bits

/-- The opcode field from the top four bits of the word's value. -/
theorem opcodeField_of_div {i : Instr} (h : (encode i).toNat / 2 ^ 28 = i.op.bits.toNat) : OpcodeField.Statement i :=
  (opField_eq_iff _ _).mpr h

theorem OpcodeField.nop (rsvd : BitVec 28) : OpcodeField.Statement (.nop rsvd) :=
  opcodeField_of_div (by
    rw [encode_toNat]
    have : rsvd.toNat < 2 ^ 28 := rsvd.isLt
    simp [Instr.op, Op.bits]
    omega)

theorem OpcodeField.start (rsvd : BitVec 26) (mode : BitVec 2) : OpcodeField.Statement (.start rsvd mode) :=
  opcodeField_of_div (by
    rw [encode_toNat]
    have : rsvd.toNat < 2 ^ 26 ∧ mode.toNat < 2 ^ 2 := ⟨rsvd.isLt, mode.isLt⟩
    simp [Instr.op, Op.bits]
    omega)

theorem OpcodeField.account (len : Len) : OpcodeField.Statement (.account len) :=
  opcodeField_of_div (by
    rw [encode_toNat]
    have : len.toNat < 2 ^ 28 := len.isLt
    simp [Instr.op, Op.bits]
    omega)

theorem OpcodeField.extend (rsvd : BitVec 28) : OpcodeField.Statement (.extend rsvd) :=
  opcodeField_of_div (by
    rw [encode_toNat]
    have : rsvd.toNat < 2 ^ 28 := rsvd.isLt
    simp [Instr.op, Op.bits]
    omega)

theorem OpcodeField.peek (rsvd : BitVec 28) : OpcodeField.Statement (.peek rsvd) :=
  opcodeField_of_div (by
    rw [encode_toNat]
    have : rsvd.toNat < 2 ^ 28 := rsvd.isLt
    simp [Instr.op, Op.bits]
    omega)

theorem OpcodeField.read (rsvd : BitVec 24) (reg : BitVec 4) : OpcodeField.Statement (.read rsvd reg) :=
  opcodeField_of_div (by
    rw [encode_toNat]
    have : rsvd.toNat < 2 ^ 24 ∧ reg.toNat < 2 ^ 4 := ⟨rsvd.isLt, reg.isLt⟩
    simp [Instr.op, Op.bits]
    omega)

end Sys2Proof.Laws
end

