-- ==== Sys2Proof/Tests/Slice0.lean ====
section
/-! SUPPORT. The package's own tests: ill-formed terms, decoding, one step per vector of spec/95_test_vectors.md, and a witness for every
obligation that has hypotheses. Expected values are the spec's. -/
namespace Sys2Proof.Tests

open Sys2Proof.Machine Sys2Proof.Safety

/-! ### Well-formedness -/

theorem test_wf_refuses_reserved_nop : ¬ (Instr.nop 1).WellFormed := by decide
theorem test_wf_refuses_reserved_start : ¬ (Instr.start 1 0).WellFormed := by decide
theorem test_wf_refuses_reserved_extend : ¬ (Instr.extend 0x8000000).WellFormed := by decide
theorem test_wf_refuses_reserved_peek : ¬ (Instr.peek 1).WellFormed := by decide
theorem test_wf_refuses_reserved_read : ¬ (Instr.read 1 0).WellFormed := by decide
theorem test_wf_refuses_mode : ¬ (Instr.start 0 2).WellFormed ∧ ¬ (Instr.start 0 3).WellFormed := by decide
theorem test_wf_refuses_register : ¬ (Instr.read 0 0xB).WellFormed ∧ (Instr.read 0 0xA).WellFormed := by decide
theorem test_wf_refuses_zero_length : ¬ (Instr.account 0).WellFormed ∧ (Instr.account 1).WellFormed := by decide

/-! ### Decoding, the words written out from 30_encoding.md R50 and R52 -/

theorem test_decode_nop : decode 0b0000_0000000000000000000000000000#32 = .ok (.nop 0) := by decide
theorem test_decode_start : decode 0b0001_00000000000000000000000000_01#32 = .ok (.start 0 1) := by decide
theorem test_decode_start_bits : decode 0b0001_00000000000000000000000001_10#32 = .ok (.start 1 2) := by decide
theorem test_decode_account : decode 0b0010_0000000000000000000001100100#32 = .ok (.account 100) := by decide
theorem test_decode_extend : decode 0b0011_0000000000000000000000000001#32 = .ok (.extend 1) := by decide
theorem test_decode_peek : decode 0b0100_0000000000000000000000000000#32 = .ok (.peek 0) := by decide
theorem test_decode_read : decode 0b0101_000000000000000000000001_1011#32 = .ok (.read 1 0xB) := by decide
theorem test_decode_reserved_opcodes : decode 0x60000000 = .error (.illegalOp 6) ∧ decode 0xFFFFFFFF = .error (.illegalOp 15) := by
  decide
theorem test_table_word : decodeTableWord 32 0x20000064 = some (.account 100) ∧ decodeTableWord 32 0x60000000 = none := by decide

/-! ### The spec's named states (95_test_vectors.md section 0) -/

/-- A state with these registers, nothing pending, nothing offered. -/
def stateOf (r : Regs) : State := { regs := r, resp := none, inputs := [], resetSeen := true }

/-- S0. -/
def s0 : Regs := State.reset.regs

/-- SR. -/
def sr : Regs := { s0 with fsm := .sGrowing }

/-- SM. -/
def sm : Regs := { sr with mode := .monitorMode }

/-- CAPR. -/
def capr : Regs := { sr with fsm := .sAtcap, w := 16, next := 65536 }

/-- CAPM. -/
def capm : Regs := { capr with mode := .monitorMode }

/-- The start state of V32 (threshold met exactly) and, with 152, of V33 (exceeded). -/
def kept (rep : Total) : Regs := { capm with baseValid := true, baseEmit := 16, baseRep := 88, emitBits := 32, repBits := rep }

/-- F3. -/
def f3 : Regs := { s0 with fsm := .sFaulted, fcause := .fBadMode, fcmd := 0x10000002 }

/-- The registers and the pending response after a step. -/
def result : Host.Outcome State Fault Refusal → Option (Regs × Option Response)
  | .next t => some (t.regs, t.resp)
  | .fault e => nomatch e
  | .refused _ => none

/-- One word offered to a state and performed by one step. -/
def run (r : Regs) (cmd : Nat) : Option (Regs × Option Response) := result (step ((stateOf r).withFetchWord 32 cmd))

/-- `(RS_OK, O_NONE, -, w, data)`. -/
def plain (w : Width) (data : Total) : Response := { status := .rsOk, outcome := .oNone, code := none, w, data }

/-- `(RS_OK, outcome, code, w, 0)`. -/
def policy (outcome : PolicyOutcome) (code : Option Code) (w : Width) : Response := { status := .rsOk, outcome, code, w, data := 0 }

/-- `(RS_FAULT, O_NONE, -, w, 0)`. -/
def faulty (w : Width) : Response := { status := .rsFault, outcome := .oNone, code := none, w, data := 0 }

/-! ### At most two vectors per command -/

theorem test_V3_nop_faulted : run f3 0x00000000 = some (f3, some (plain 9 0)) := by decide
theorem test_V2_nop_reserved :
    run s0 0x00000001 = some ({ s0 with fsm := .sFaulted, fcause := .fRsvdBits, fcmd := 1 }, some (faulty 9)) := by decide
theorem test_V11_start_monitor_faulted : run f3 0x10000001 = some (sm, some (plain 9 0)) := by decide
theorem test_V9_start_reserved_before_mode :
    run s0 0x10000006 = some ({ s0 with fsm := .sFaulted, fcause := .fRsvdBits, fcmd := 0x10000006 }, some (faulty 9)) := by decide
theorem test_V18a_account_largest_total :
    run { sm with emitBits := 0xFFFFFFFFFFFFFFF6 } 0x20000001 =
      some ({ sm with emitBits := 0xFFFFFFFFFFFFFFFF, repBits := 8 }, some (plain 9 0)) := by decide
theorem test_V19b_account_overflow :
    run { sm with emitBits := 9, repBits := 0xFFFFFFFFFFFFFFF8 } 0x20000001 =
      some ({ sm with emitBits := 9, repBits := 0xFFFFFFFFFFFFFFF8, fsm := .sFaulted, fcause := .fTotalOvf, fcmd := 0x20000001 },
        some (faulty 9)) := by decide
theorem test_V28_extend_grew :
    run { sr with w := 15, next := 32768 } 0x30000000 =
      some ({ sr with w := 16, next := 32769 }, some (policy .oGrew (some 32768) 16)) := by decide
theorem test_V33_extend_exceeds :
    run (kept 152) 0x30000000 = some ({ sm with fsm := .sReset, next := 258 }, some (policy .oReset (some 257) 9)) := by decide
theorem test_V36_peek_grew :
    run { sr with next := 512 } 0x40000000 = some ({ sr with next := 512 }, some (policy .oGrew (some 512) 10)) := by decide
theorem test_V39b_peek_reset : run (kept 152) 0x40000000 = some (kept 152, some (policy .oReset (some 257) 9)) := by decide
theorem test_V53_read_status : run capm 0x50000000 = some (capm, some (plain 16 0x0010000A)) := by decide
theorem test_V40_read_param1 : run s0 0x5000000A = some (s0, some (plain 9 0x000A000B00081009)) := by decide
theorem test_V47_illegal_rejected :
    run f3 0x60000000 = some (f3, some { status := .rsRejected, outcome := .oNone, code := none, w := 9, data := 0 }) := by decide
theorem test_V46_illegal :
    run s0 0xFFFFFFFF = some ({ s0 with fsm := .sFaulted, fcause := .fIllegalOp, fcmd := 0xFFFFFFFF }, some (faulty 9)) := by decide
theorem test_V32_threshold_strict : exceeds Config.hw (kept 160) = false ∧ exceeds Config.hw (kept 152) = true := by decide

/-- P1's first lines as text (95_test_vectors.md section 3; 30_encoding.md R61). -/
theorem test_assembler :
    assembleText "start Monitor ; mode 1".toList = some [0x10000001] ∧ assembleText "ESTEP 2".toList = some [0x20000002, 0x30000000] ∧
      assembleText "READ fcmd".toList = some [0x50000008] := by decide

/-! ### Witnesses: concrete states and operands that meet the hypotheses of the obligations -/

/-- The word `cmd` offered to registers `r`, then the response taken. -/
def offered (r : Regs) (cmd : Word) : State := { stateOf r with inputs := [offer cmd, take] }

theorem accepts_offered (r : Regs) (cmd : Word) : Accepts (offered r cmd) cmd [take] := ⟨rfl, rfl, offer cmd, rfl, rfl, rfl, rfl⟩

theorem witness_EncodeOfDecode : decode 0x5000000A = .ok (.read 0 0xA) := by decide

/-- One word for each clause of the opcode map, the clauses' edges among them. -/
theorem witness_OpcodeMap :
    (0x0FFFFFFF : Word) &&& 0xF0000000 = 0x00000000 ∧ (0x10000000 : Word) &&& 0xF0000000 = 0x10000000 ∧
    (0x2FFFFFFF : Word) &&& 0xF0000000 = 0x20000000 ∧ (0x30000000 : Word) &&& 0xF0000000 = 0x30000000 ∧
    (0x4FFFFFFF : Word) &&& 0xF0000000 = 0x40000000 ∧ (0x5000000A : Word) &&& 0xF0000000 = 0x50000000 ∧
    6 ≤ opNumber 0x60000000 ∧ s0.fsm ≠ .sFaulted ∧
    (opNumber 0x50000010 < 6 ∧ (0x50000010 : Word) &&& rsvdMaskOf (opNumber 0x50000010) ≠ 0) ∧
    (decode 0x5000000A = .ok (.read 0 0xA) ∧ (Instr.read 0 0xA).WellFormed) ∧
    (decode 0x20000000 = .ok (.account 0) ∧ ¬ (Instr.account 0).WellFormed) := by decide

theorem witness_OperandFields_mode :
    decode 0x10000000 = .ok (.start 0 0) ∧ decode 0x10000001 = .ok (.start 0 1) ∧ decode 0x10000002 = .ok (.start 0 2) ∧
      decode 0x10000003 = .ok (.start 0 3) ∧ modeOperand 0 = some .resetMode ∧ modeOperand 1 = some .monitorMode ∧
      s0.fsm ≠ .sFaulted := by decide
theorem witness_OperandFields_len :
    decode 0x20000000 = .ok (.account 0) ∧ lenOperand 0 = 0 ∧ decode 0x20000001 = .ok (.account 1) ∧ lenOperand 1 ≠ 0 ∧
      decode 0x2FFFFFFF = .ok (.account 0xFFFFFFF) ∧ lenOperand 0xFFFFFFF = 2 ^ 28 - 1 := by decide
theorem witness_OperandFields_reg :
    decode 0x5000000A = .ok (.read 0 0xA) ∧ decode 0x5000000B = .ok (.read 0 0xB) ∧ decode 0x5000000F = .ok (.read 0 0xF) := by decide

theorem witness_StepRunsDecoded : Accepts (offered sm 0x20000003) 0x20000003 [take] ∧ decode 0x20000003 = .ok (.account 3) :=
  ⟨accepts_offered _ _, by decide⟩
theorem witness_StepIllegalOpcode :
    Accepts (offered s0 0x60000000) 0x60000000 [take] ∧ Accepts (offered f3 0xFFFFFFFF) 0xFFFFFFFF [take] ∧
      6 ≤ opNumber 0x60000000 ∧ 6 ≤ opNumber 0xFFFFFFFF ∧ s0.fsm ≠ .sFaulted ∧ f3.fsm = .sFaulted :=
  ⟨accepts_offered _ _, accepts_offered _ _, by decide⟩
/-- Every cause of Check, and none: the two sides of the overflow among them. -/
theorem witness_CheckOnRawWords :
    checkWord 0x60000000 s0 = .fIllegalOp ∧ checkWord 0x30000001 s0 = .fRsvdBits ∧ checkWord 0x10000002 s0 = .fBadMode ∧
    checkWord 0x5000000B s0 = .fBadReg ∧ checkWord 0x20000000 s0 = .fZeroLen ∧ checkWord 0x20000001 s0 = .fNotStarted ∧
    checkWord 0x20000001 { sm with emitBits := 0xFFFFFFFFFFFFFFF7 } = .fTotalOvf ∧
    checkWord 0x20000001 { sm with emitBits := 0xFFFFFFFFFFFFFFF6 } = .fNone ∧ sm.fsm ≠ .sFaulted ∧ s0.fsm ≠ .sFaulted := by decide
theorem witness_FaultEntry :
    checkWord 0x5000000B s0 = .fBadReg ∧ s0.fsm ≠ .sFaulted ∧ checkWord 0x10000003 f3 = .fBadMode ∧ f3.fsm = .sFaulted ∧
    opNumber 0x10000003 = 1 ∧
    runWord 0x5000000B (stateOf s0) = .next (faulted .fBadReg 0x5000000B (stateOf s0)) ∧
    (faulted .fBadReg 0x5000000B (stateOf s0)).resp = some (faulty 9) ∧
    runWord 0x10000003 (stateOf f3) = .next (faulted .fBadMode 0x10000003 (stateOf f3)) ∧ (faulty 9).status = .rsFault :=
  ⟨by decide, by decide, by decide, by decide, by decide, rfl, rfl, rfl, rfl⟩
theorem witness_RejectionWhenFaulted :
    f3.fsm = .sFaulted ∧ (opNumber 0x60000000 ≠ 0 ∧ opNumber 0x60000000 ≠ 1 ∧ opNumber 0x60000000 ≠ 5) ∧
    (opNumber 0x10000003 = 1 ∧ checkWord 0x10000003 f3 ≠ .fNone) ∧ (opNumber 0x50000008 = 5 ∧ checkWord 0x50000008 f3 = .fNone) := by
  decide
theorem witness_FirstFaultKept :
    f3.fsm = .sFaulted ∧ opNumber 0x50000010 = 5 ∧ checkWord 0x50000010 f3 = .fRsvdBits ∧ opNumber 1 = 0 ∧
      checkWord 1 f3 = .fRsvdBits := by decide
/-- START leaves S_FAULTED. -/
theorem witness_OnlyStart_leaves :
    (offered f3 0x10000001).regs.fsm = .sFaulted ∧
      step (offered f3 0x10000001) = .next { offered sm 0 with inputs := [take], resp := some (plain 9 0) } ∧ sm.fsm ≠ .sFaulted :=
  ⟨rfl, rfl, by decide⟩
/-- `rst` leaves S_FAULTED. -/
theorem witness_Reset_leaves :
    step { stateOf f3 with inputs := [{ rst := true, cmdValid := true, cmdWord := 0, respReady := true }] } = .next (stateOf s0) ∧
      s0.fsm ≠ .sFaulted := ⟨rfl, by decide⟩
/-- V55: a response pending and `rst = 1`. -/
theorem witness_HardwareReset :
    ∃ s : State, s.resp = some (faulty 9) ∧
      s.inputs = [{ rst := true, cmdValid := true, cmdWord := 0x30000000, respReady := true }] ∧ step s = .next (stateOf s0) :=
  ⟨{ stateOf (kept 152) with
      resp := some (faulty 9), inputs := [{ rst := true, cmdValid := true, cmdWord := 0x30000000, respReady := true }] }, rfl, rfl, rfl⟩

/-- A state with a response pending and a command offered while it is taken. -/
def pending (ready : Bool) : State :=
  { stateOf sm with
    resp := some (plain 9 0), inputs := [{ rst := false, cmdValid := true, cmdWord := 0x30000000, respReady := ready }] }

theorem witness_OneCommandInFlight (ready : Bool) :
    (pending ready).resp = some (plain 9 0) ∧ (pending ready).resetSeen = true ∧
      (pending ready).inputs = [{ rst := false, cmdValid := true, cmdWord := 0x30000000, respReady := ready }] := ⟨rfl, rfl, rfl⟩
/-- The command offered at the edge that takes the response is not accepted: `cmd_ready` is 0 there (30_encoding.md R54). -/
theorem witness_OneCommandInFlight_step :
    result (step (pending true)) = some (sm, none) ∧ result (step (pending false)) = some (sm, some (plain 9 0)) := by decide
theorem witness_ResponseOnPorts :
    (stateOf sr).resp = none ∧ ((exec (.extend 0) (stateOf sr)) =
      .next { stateOf { sr with next := 258 } with resp := some (policy .oAssigned (some 257) 9) }) ∧
    runWord 0x50000002 (stateOf sr) = .next { stateOf sr with resp := some (plain 9 512) } ∧ opNumber 0x50000002 = 5 ∧
    opNumber 0x30000000 = 3 := ⟨rfl, rfl, rfl, by decide, by decide⟩
theorem witness_StateRetained :
    (stateOf sm).inputs = [] ∧ take.rst = false ∧ take.cmdValid = false ∧ { stateOf sm with inputs := [take] }.inputs = [take] := by
  decide
theorem witness_EveryCommandCompletes :
    Accepts (offered s0 0x30000000) 0x30000000 [take] ∧ (pending true).resetSeen = true ∧ (pending true).resp ≠ none :=
  ⟨accepts_offered _ _, rfl, by decide⟩
/-- The model's state before the first reset, a command offered or not. -/
theorem witness_BeforeFirstReset :
    { offered s0 0 with resetSeen := false }.inputs = [offer 0, take] ∧
      step { offered s0 0 with resetSeen := false } = .refused .beforeFirstReset ∧
      step { stateOf s0 with resetSeen := false, inputs := [take] } = .next { stateOf s0 with resetSeen := false } := ⟨rfl, rfl, rfl⟩
theorem witness_IssueIsTwoSteps : (stateOf sm).resetSeen = true ∧ (stateOf sm).resp = none := ⟨rfl, rfl⟩

theorem witness_NopDoes : (1 : BitVec 28) ≠ 0 := by decide
theorem witness_StartDoes : (1 : BitVec 2).toNat < 2 ∧ 2 ≤ (2 : BitVec 2).toNat ∧ (1 : BitVec 26) ≠ 0 := by decide
theorem witness_ReadDoes : (0xA : BitVec 4).toNat < 0xB ∧ 0xB ≤ (0xB : BitVec 4).toNat ∧ (1 : BitVec 24) ≠ 0 := by decide
/-- The clauses of ACCOUNT: S_FAULTED, LEN 0, S_IDLE, Reset mode, and both sides of each overflow (V18a to V19b). -/
theorem witness_AccountDoes :
    f3.fsm = .sFaulted ∧ s0.fsm = .sIdle ∧ s0.fsm ≠ .sFaulted ∧ (1 : Len) ≠ 0 ∧ (Started sr ∧ sr.mode = .resetMode) ∧
    (Started sm ∧ sm.mode = .monitorMode) ∧
    (0xFFFFFFFFFFFFFFF7 : Total).toNat + sm.w.toNat = 2 ^ 64 ∧ (0xFFFFFFFFFFFFFFF6 : Total).toNat + sm.w.toNat = 2 ^ 64 - 1 ∧
    (0xFFFFFFFFFFFFFFF8 : Total).toNat + 8 * (1 : Len).toNat = 2 ^ 64 ∧
    (0xFFFFFFFFFFFFFFF0 : Total).toNat + 8 * (1 : Len).toNat ≤ 2 ^ 64 - 1 := by decide
/-- The clauses of EXTEND, each at its edge: one below capacity, at capacity, at W 16 in both modes, the threshold met and exceeded. -/
theorem witness_ExtendDoes :
    f3.fsm = .sFaulted ∧ s0.fsm = .sIdle ∧ (1 : BitVec 28) ≠ 0 ∧
    (Started { sr with next := 511 } ∧ { sr with next := 511 }.next.toNat < 2 ^ sr.w.toNat) ∧
    (Started { sr with next := 512 } ∧ 2 ^ sr.w.toNat ≤ { sr with next := 512 }.next.toNat ∧ sr.w.toNat < 16) ∧
    (Started capr ∧ 2 ^ capr.w.toNat ≤ capr.next.toNat ∧ 16 ≤ capr.w.toNat ∧ capr.mode = .resetMode) ∧
    (Started capm ∧ 2 ^ capm.w.toNat ≤ capm.next.toNat ∧ capm.mode = .monitorMode ∧ capm.baseValid = false) ∧
    (Started (kept 160) ∧ (kept 160).baseValid = true ∧
      10 * (kept 160).baseRep.toNat * (kept 160).emitBits.toNat = 11 * (kept 160).baseEmit.toNat * (kept 160).repBits.toNat) ∧
    (Started (kept 152) ∧
      10 * (kept 152).baseRep.toNat * (kept 152).emitBits.toNat > 11 * (kept 152).baseEmit.toNat * (kept 152).repBits.toNat) := by
  decide
theorem witness_PeekDoes : f3.fsm = .sFaulted ∧ s0.fsm = .sIdle ∧ Started sr ∧ (1 : BitVec 28) ≠ 0 := by decide
theorem witness_StatusLayout :
    exec (.start 0 0) (stateOf s0) = .next { stateOf sr with resp := some (plain 9 0) } ∧
      exec (.start 0 1) (stateOf (kept 152)) = .next { stateOf sm with resp := some (plain 9 0) } := ⟨rfl, rfl⟩
theorem witness_ReadTwice : (0xA : BitVec 4).toNat < 0xB := by decide
theorem witness_ModeWrittenOnlyByStart :
    step (offered s0 0x10000001) = .next { stateOf sm with inputs := [take], resp := some (plain 9 0) } ∧ sm.mode ≠ s0.mode :=
  ⟨rfl, by decide⟩
/-- BASE_VALID set by O_NOOP_BASELINE (V31a), and cleared by O_RESET (V33). -/
theorem witness_BaseValidWrittenOnlyBy :
    step (offered capm 0x30000000) =
      .next { stateOf { capm with baseValid := true } with inputs := [take], resp := some (policy .oNoopBaseline none 16) } ∧
    step (offered (kept 152) 0x30000000) =
      .next { stateOf { sm with fsm := .sReset, next := 258 } with inputs := [take], resp := some (policy .oReset (some 257) 9) } :=
  ⟨rfl, rfl⟩
theorem witness_FaultRecordWrittenOnlyBy :
    step (offered s0 0x60000000) =
      .next { stateOf { s0 with fsm := .sFaulted, fcause := .fIllegalOp, fcmd := 0x60000000 } with
        inputs := [take], resp := some (faulty 9) } ∧
    step (offered f3 0x10000001) = .next { stateOf sm with inputs := [take], resp := some (plain 9 0) } := ⟨rfl, rfl⟩
/-- Each way of the totals: added to, cleared, kept. -/
theorem witness_TotalsCumulative :
    runWord 0x20000003 (stateOf sm) = .next { stateOf { sm with emitBits := 9, repBits := 24 } with resp := some (plain 9 0) } ∧
    runWord 0x30000000 (stateOf (kept 152)) =
      .next { stateOf { sm with fsm := .sReset, next := 258 } with resp := some (policy .oReset (some 257) 9) } ∧
    runWord 0x30000000 (stateOf (kept 160)) = .next { stateOf (kept 160) with resp := some (policy .oNoopKeep none 16) } :=
  ⟨rfl, rfl, rfl⟩
theorem witness_ThresholdIsRatio : 0 < (kept 160).baseEmit.toNat ∧ 0 < (kept 160).repBits.toNat := by decide

/-- The invariant holds in SR. -/
theorem inv_sr : Inv (stateOf sr) :=
  ⟨{ range := by decide, grew := by decide, atcap := by decide, resetMode := by decide, baseline := by decide, totals := by decide,
     fault := by decide, idle := by decide, justReset := by decide }, fun _ h => nomatch h⟩
/-- The invariant holds with a full table and a baseline. -/
theorem inv_kept160 : Inv (stateOf (kept 160)) :=
  ⟨{ range := by decide, grew := by decide, atcap := by decide, resetMode := by decide, baseline := by decide, totals := by decide,
     fault := by decide, idle := by decide, justReset := by decide }, fun _ h => nomatch h⟩
/-- The same with the threshold exceeded. -/
theorem inv_kept152 : Inv (stateOf (kept 152)) :=
  ⟨{ range := by decide, grew := by decide, atcap := by decide, resetMode := by decide, baseline := by decide, totals := by decide,
     fault := by decide, idle := by decide, justReset := by decide }, fun _ h => nomatch h⟩
/-- The invariant holds in F3. -/
theorem inv_f3 : Inv (stateOf f3) :=
  ⟨{ range := by decide, grew := by decide, atcap := by decide, resetMode := by decide, baseline := by decide, totals := by decide,
     fault := by decide, idle := by decide, justReset := by decide }, fun _ h => nomatch h⟩
/-- The invariant holds in SR with a command offered. -/
theorem inv_offered_sr : Inv (offered sr 0x30000000) := ⟨inv_sr.regs, fun _ h => nomatch h⟩

theorem witness_AccountInResetMode : sr.mode = .resetMode ∧ Started sr ∧ s0.mode = .resetMode ∧ s0.fsm = .sIdle ∧ Inv (stateOf sr) :=
  ⟨by decide, by decide, by decide, by decide, inv_sr⟩
theorem witness_EmptyBaseline :
    ({ capm with baseValid := true }.baseEmit = 0 ∧ { capm with baseValid := true }.baseRep = 0) ∧
      RegsInv (kept 160) ∧ (kept 160).baseEmit ≠ 0 := ⟨by decide, inv_kept160.regs, by decide⟩
theorem witness_KeepsUntilExceeded :
    (RegsInv (kept 160) ∧ (kept 160).fsm = .sAtcap ∧ (kept 160).baseValid = true ∧ exceeds Config.hw (kept 160) = false) ∧
      RegsInv (kept 152) ∧ exceeds Config.hw (kept 152) = true :=
  ⟨⟨inv_kept160.regs, by decide⟩, inv_kept152.regs, by decide⟩
theorem witness_StepKeepsInv :
    Inv (offered sr 0x30000000) ∧
      step (offered sr 0x30000000) =
        .next { stateOf { sr with next := 258 } with inputs := [take], resp := some (policy .oAssigned (some 257) 9) } :=
  ⟨inv_offered_sr, rfl⟩
/-- The rows of the transition table: from S_GROWING, S_ATCAP, S_FAULTED and S_IDLE. -/
theorem witness_FsmTransitionTable :
    (Inv (stateOf sr) ∧ runWord 0x30000000 (stateOf sr) =
      .next { stateOf { sr with next := 258 } with resp := some (policy .oAssigned (some 257) 9) }) ∧
    (Inv (stateOf (kept 160)) ∧ runWord 0x30000000 (stateOf (kept 160)) =
      .next { stateOf (kept 160) with resp := some (policy .oNoopKeep none 16) }) ∧
    (Inv (stateOf f3) ∧ runWord 0x50000000 (stateOf f3) = .next { stateOf f3 with resp := some (plain 9 0x00090304) }) ∧
    runWord 0x40000000 (stateOf s0) =
      .next { stateOf { s0 with fsm := .sFaulted, fcause := .fNotStarted, fcmd := 0x40000000 } with resp := some (faulty 9) } :=
  ⟨⟨inv_sr, rfl⟩, ⟨inv_kept160, rfl⟩, ⟨inv_f3, rfl⟩, rfl⟩
theorem witness_FsmTransitionTable_rst :
    edge { rst := true, cmdValid := false, cmdWord := 0, respReady := false } (stateOf f3) = .next (stateOf s0) := rfl
theorem witness_WidthMonotonic :
    Inv (stateOf (kept 152)) ∧ runWord 0x30000000 (stateOf (kept 152)) =
      .next { stateOf { sm with fsm := .sReset, next := 258 } with resp := some (policy .oReset (some 257) 9) } := ⟨inv_kept152, rfl⟩
theorem witness_AssignedCodeFits :
    Inv (stateOf sr) ∧ runWord extendWord (stateOf sr) =
      .next { stateOf { sr with next := 258 } with resp := some (policy .oAssigned (some 257) 9) } := ⟨inv_sr, rfl⟩
/-- Both starts of the count, and the largest one: a = 0 with n = 65279, and a = 1 with n = 65278. -/
theorem witness_CodesAssignedInOrder :
    (Started sr ∧ sr.w = 9 ∧ sr.next.toNat = 257 + 0 ∧ 257 + 0 + 65279 ≤ 65536) ∧
      (Started { sr with fsm := .sReset, next := 258 } ∧ { sr with fsm := .sReset, next := 258 }.next.toNat = 257 + 1 ∧
        257 + 1 + 65278 ≤ 65536) :=
  ⟨⟨by decide, by decide, by decide, by omega⟩, by decide, by decide, by omega⟩
theorem witness_DecisionInRange :
    Config.hw.Legal ∧ Config.hw.wmax ≤ 16 ∧ Config.hw.w0 ≤ capm.w.toNat ∧ capm.w.toNat ≤ Config.hw.wmax ∧
      Config.hw.firstCode ≤ capm.next.toNat ∧ capm.next.toNat ≤ 2 ^ capm.w.toNat := by decide
theorem witness_PeekPredictsExtend :
    ∀ i ∈ [Instr.nop 0, Instr.read 0 0xA, Instr.peek 0], i.WellFormed ∧ isObserver i = true := by decide
theorem witness_ObserversDoNotMatter :
    sm.fsm ≠ .sIdle ∧ (∀ i ∈ [Instr.account 2, Instr.peek 0, Instr.extend 0, Instr.nop 0], i.WellFormed) ∧
      [Instr.account 2, Instr.peek 0, Instr.extend 0, Instr.nop 0].filter (fun i => !isObserver i) =
        [Instr.account 2, Instr.extend 0].filter (fun i => !isObserver i) := by decide
theorem witness_CanonicalSequences :
    [(1 : Len), 2, 3, 4].length < 2 ^ 60 ∧ (∀ n ∈ [(1 : Len), 2, 3, 4], n ≠ 0) ∧
      8 * ([(1 : Len), 2, 3, 4].map BitVec.toNat).sum < 2 ^ 64 := ⟨by norm_num, by simp, by simp⟩
/-- Both sides of the sentinel hazard: a table that is not full, and one that is full and is reset. -/
theorem witness_SentinelWidthHazard :
    Inv (stateOf sr) ∧ Started sr ∧ Inv (stateOf (kept 152)) ∧ Started (kept 152) ∧ (kept 152).next.toNat = 2 ^ (kept 152).w.toNat ∧
      exceeds Config.hw (kept 152) = true := ⟨inv_sr, by decide, inv_kept152, by decide, by decide, by decide⟩
theorem witness_EmptyInput : (0x52 : BitVec 8) ≠ 0x4D := by decide

end Sys2Proof.Tests
end

section
/-! PROOFS. The parameters and the range of the decision (00_scope.md R4, R5; 42_policy.md R71). -/
namespace Sys2Proof.Machine

/-! ### The legal parameters -/

/-- The values of R4 meet every constraint of R5. -/
theorem hw_legal : Config.hw.Legal := by decide

@[simp] theorem hw_l0 : Config.hw.l0 = 512 := rfl

/-- `FIRST_CODE` is the code next after `SENTINEL`. -/
theorem sentinel_lt_iff (p : Config.Params) (n : Nat) : p.sentinel < n ↔ p.firstCode ≤ n := Iff.rfl

/-! ### The range of a decision, one lemma for each outcome -/

/-- A decision in range: its width is a legal one, and the code it names, if any, is above the sentinel and fits in that width. -/
def Decision.InRange (p : Config.Params) (d : Decision) : Prop :=
  p.w0 ≤ d.w.toNat ∧ d.w.toNat ≤ p.wmax ∧
    ∀ c, d.code = some c → p.sentinel < c.toNat ∧ c.toNat < 2 ^ d.w.toNat

/-- A decision that names no code is in range when its width is. -/
theorem Decision.inRange_of_code_none {p : Config.Params} {d : Decision} (h0 : p.w0 ≤ d.w.toNat) (h1 : d.w.toNat ≤ p.wmax)
    (hc : d.code = none) : d.InRange p :=
  ⟨h0, h1, by simp [hc]⟩

/-- A decision that names the code `c`. -/
theorem Decision.inRange_of_code_some {p : Config.Params} {d : Decision} {c : Counter} (h0 : p.w0 ≤ d.w.toNat)
    (h1 : d.w.toNat ≤ p.wmax) (hc : d.code = some c) (hlo : p.firstCode ≤ c.toNat) (hhi : c.toNat < 2 ^ d.w.toNat) :
    d.InRange p := by
  refine ⟨h0, h1, fun c' hc' => ?_⟩
  obtain rfl : c = c' := Option.some.inj (hc.symm.trans hc')
  exact ⟨(sentinel_lt_iff p _).mpr hlo, hhi⟩

/-- A width below WMAX grows without wrapping in its 5 bits. -/
theorem width_succ_toNat {p : Config.Params} {w : Width} (hp : p.wmax ≤ 16) (hw : w.toNat < p.wmax) :
    (w + 1).toNat = w.toNat + 1 := by
  bv_omega

/-- W0 is held in the 5 bits of W. -/
theorem w0_toNat {p : Config.Params} (hl : p.Legal) (hp : p.wmax ≤ 16) : (BitVec.ofNat 5 p.w0).toNat = p.w0 := by
  obtain ⟨-, -, -, hw, -⟩ := hl
  rw [BitVec.toNat_ofNat]
  exact Nat.mod_eq_of_lt (by omega)

/-- FIRST_CODE is held in the 17 bits of NEXT: it is below `2^W0`, and W0 is at most 16. -/
theorem firstCode_toNat {p : Config.Params} (hl : p.Legal) (hp : p.wmax ≤ 16) :
    (BitVec.ofNat 17 p.firstCode).toNat = p.firstCode := by
  obtain ⟨-, hf, -, hw, -⟩ := hl
  rw [BitVec.toNat_ofNat]
  refine Nat.mod_eq_of_lt ?_
  calc p.firstCode < 2 ^ p.w0 := hf
    _ ≤ 2 ^ 17 := Nat.pow_le_pow_right (by decide) (by omega)

/-- O_GREW names NEXT, which fits in the wider code: `NEXT ≤ 2^W < 2^(W+1)`. -/
theorem grewDecision_inRange {p : Config.Params} {r : Regs} (hp : p.wmax ≤ 16) (h0 : p.w0 ≤ r.w.toNat)
    (hw : r.w.toNat < p.wmax) (hlo : p.firstCode ≤ r.next.toNat) (hhi : r.next.toNat ≤ 2 ^ r.w.toNat) :
    Decision.InRange p { outcome := .oGrew, code := some r.next, w := r.w + 1 } := by
  have hw' := width_succ_toNat hp hw
  refine Decision.inRange_of_code_some (by simp only [hw']; omega) (by simp only [hw']; omega) rfl hlo ?_
  calc r.next.toNat ≤ 2 ^ r.w.toNat := hhi
    _ < 2 ^ (r.w.toNat + 1) := Nat.pow_lt_pow_succ (by decide)
    _ = 2 ^ (r.w + 1).toNat := by rw [hw']

/-- O_RESET names FIRST_CODE at width W0, where R5 makes it fit. -/
theorem resetDecision_inRange {p : Config.Params} (hl : p.Legal) (hp : p.wmax ≤ 16) : (resetDecision p).InRange p := by
  have hw : (resetDecision p).w.toNat = p.w0 := w0_toNat hl hp
  have hc := firstCode_toNat hl hp
  obtain ⟨-, hf, -, hle, -⟩ := hl
  refine Decision.inRange_of_code_some hw.ge (hw.trans_le hle) rfl hc.ge ?_
  rw [hw, hc]
  exact hf

/-- Whatever is decided from W and NEXT in range is in range. -/
theorem decision_inRange {p : Config.Params} {r : Regs} (hl : p.Legal) (hp : p.wmax ≤ 16) (h0 : p.w0 ≤ r.w.toNat)
    (h1 : r.w.toNat ≤ p.wmax) (hlo : p.firstCode ≤ r.next.toNat) (hhi : r.next.toNat ≤ 2 ^ r.w.toNat) :
    (decision p r).InRange p := by
  rcases decision_conditions p r with h | ⟨h, hw⟩ | ⟨h, hw, hr⟩ | ⟨h, hw, hm, hb⟩ | ⟨h, hw, hm, hb, he⟩
  · rw [decision_assigned h]
    exact Decision.inRange_of_code_some h0 h1 rfl hlo h
  · rw [decision_grew h hw]
    exact grewDecision_inRange hp h0 hw hlo hhi
  · rw [decision_reset h hw hr]
    exact resetDecision_inRange hl hp
  · rw [decision_baseline h hw hm hb]
    exact Decision.inRange_of_code_none h0 h1 rfl
  · rw [decision_keep h hw hm hb he]
    exact Decision.inRange_of_code_none h0 h1 rfl

end Sys2Proof.Machine

namespace Sys2Proof.Proofs

open Sys2Proof.Machine

/-- Settles O43, by the five outcomes of the decision. -/
theorem decisionInRangeForLegalParams : Obligations.DecisionInRangeForLegalParams :=
  fun _ _ hl hp h0 h1 hlo hhi => decision_inRange hl hp h0 h1 hlo hhi

/-- Settles O44, by the hardware's values. -/
theorem hardwareParamsLegal : Obligations.HardwareParamsLegal :=
  ⟨hw_legal, hw_firstCode, hw_sentinel, hw_l0, hw_lmax⟩

end Sys2Proof.Proofs
end

section
/-! PROOFS. What an accepted word can do to the registers, said once: nothing, take a fault, begin a run, account, or extend
(30_encoding.md R58). -/
namespace Sys2Proof

open Sys2Proof.Machine Sys2Proof.Safety

/-! ### Legal words -/

/-- A word that decodes is the encoding of its command: the decoder keeps every bit (30_encoding.md R50 to R52). -/
theorem encode_of_decode {cmd : Word} {i : Instr} (h : decode cmd = .ok i) : encode i = cmd := by
  have hlt := cmd.isLt
  apply BitVec.eq_of_toNat_eq
  rw [encode_toNat]
  rcases decode_cases cmd with
    ⟨hop, hd⟩ | ⟨hop, hd⟩ | ⟨hop, hd⟩ | ⟨hop, hd⟩ | ⟨hop, hd⟩ | ⟨hop, hd⟩ | ⟨-, hd⟩
  case inr.inr.inr.inr.inr.inr => exact absurd (hd.symm.trans h) nofun
  all_goals
    obtain rfl := Except.ok.inj (hd.symm.trans h)
    simp only [BitVec.extractLsb'_toNat, Nat.shiftRight_eq_div_pow, opNumber] at hop ⊢
    omega

/-- A legal START is one of the two words that R52 lists. -/
theorem isStartWord_of_decode {cmd : Word} {rsvd : BitVec 26} {mode : BitVec 2} (h : decode cmd = .ok (.start rsvd mode))
    (hwf : (Instr.start rsvd mode).WellFormed) : IsStartWord cmd := by
  obtain ⟨hr, hm, -, -⟩ := (wellFormed_iff _).1 hwf
  simp only [Instr.reservedClear, Instr.modeLegal, beq_iff_eq, decide_eq_true_eq] at hr hm
  have hm' : mode = 0 ∨ mode = 1 := by bv_omega
  subst hr
  rcases hm' with rfl | rfl
  · exact .inl (encode_of_decode h).symm
  · exact .inr (encode_of_decode h).symm

/-- A legal EXTEND is the one word that R52 lists. -/
theorem eq_extendWord_of_decode {cmd : Word} {rsvd : BitVec 28} (h : decode cmd = .ok (.extend rsvd))
    (hwf : (Instr.extend rsvd).WellFormed) : cmd = 0x30000000 := by
  obtain ⟨hr, -⟩ := (wellFormed_iff _).1 hwf
  obtain rfl : rsvd = 0 := by simpa [Instr.reservedClear] using hr
  exact (encode_of_decode h).symm

/-- A legal ACCOUNT names at least one symbol. -/
theorem len_ne_zero_of_wellFormed {len : Len} (hwf : (Instr.account len).WellFormed) : len ≠ 0 := by
  obtain ⟨-, -, -, hl⟩ := (wellFormed_iff _).1 hwf
  simpa [Instr.lenLegal] using hl

namespace Machine

/-! ### The effects on the registers -/

/-- READ writes no register (40_control.md R67). -/
theorem readBody_regs (p : Config.Params) (reg : BitVec 4) (r : Regs) : (readBody p reg r).1 = r := by
  unfold readBody
  split <;> rfl

/-- START with a mode operand that names a mode begins the run. -/
theorem startBody_of_modeOperand {p : Config.Params} {mode : BitVec 2} {m : Mode} (h : modeOperand mode = some m) (r : Regs) :
    startBody p mode r = (beginRun p m, respondOk (beginRun p m) 0) := by
  simp [startBody, h]

/-- A legal mode operand names a mode. -/
theorem modeOperand_of_wellFormed {rsvd : BitVec 26} {mode : BitVec 2} (hwf : (Instr.start rsvd mode).WellFormed) :
    ∃ m, modeOperand mode = some m := by
  obtain ⟨-, hm, -, -⟩ := (wellFormed_iff _).1 hwf
  simp only [Instr.modeLegal, decide_eq_true_eq] at hm
  have hm' : mode = 0 ∨ mode = 1 := by bv_omega
  rcases hm' with rfl | rfl
  · exact ⟨.resetMode, rfl⟩
  · exact ⟨.monitorMode, rfl⟩

/-- Fault entry from a state with no fault recorded (60_exceptions.md R100). -/
theorem takeFault_regs_of_not_faulted {c : Cause} {cmd : Word} {r : Regs} (h : r.fsm ≠ .sFaulted) :
    (takeFault c cmd r).1 = { r with fcause := c, fcmd := cmd, fsm := .sFaulted } := by
  simp [takeFault, h]

/-- A later fault writes no register (60_exceptions.md R104). -/
theorem takeFault_regs_of_faulted {c : Cause} {cmd : Word} {r : Regs} (h : r.fsm = .sFaulted) : (takeFault c cmd r).1 = r := by
  simp [takeFault, h]

/-- A command performed that needs a run has one. -/
theorem started_of_performed {i : Instr} {r : Regs} (hp : r.fsm = .sFaulted → performedWhenFaulted i.op = true)
    (hc : check Config.hw i r = .fNone) (hn : needsRun i.op = true) : Started r := by
  obtain ⟨-, hidle, -⟩ := (check_eq_none_iff _ _ _).1 hc
  refine ⟨hidle hn, fun hf => ?_⟩
  have := hp hf
  cases i <;> simp_all [Instr.op, needsRun, performedWhenFaulted]

/-! ### The effects of an accepted word -/

/-- The ways an accepted word leaves the registers `r` (30_encoding.md R58). -/
inductive WordEffect (cmd : Word) (r : Regs) : Regs × Response → Prop where
  /-- No register is written: a command rejected, a later fault, or NOP, READ or PEEK. -/
  | unchanged {a : Regs × Response} (h : a.1 = r) : WordEffect cmd r a
  /-- The first fault is taken. -/
  | fault {c : Cause} (hc : c ≠ .fNone) (hf : r.fsm ≠ .sFaulted) : WordEffect cmd r (takeFault c cmd r)
  /-- A run begins. -/
  | start (m : Mode) (hcmd : IsStartWord cmd) : WordEffect cmd r (beginRun Config.hw m, respondOk (beginRun Config.hw m) 0)
  /-- An ACCOUNT is performed. -/
  | account {len : Len} (hs : Started r) (hlen : len ≠ 0) (ho : totalsOverflow Config.hw r len = false) :
      WordEffect cmd r (accountBody Config.hw len r)
  /-- An EXTEND is performed. -/
  | extend (hs : Started r) (hcmd : cmd = 0x30000000) : WordEffect cmd r (extendBody Config.hw r)

/-- A fault, the first or a later one. -/
theorem wordEffect_takeFault {c : Cause} {cmd : Word} {r : Regs} (hc : c ≠ .fNone) : WordEffect cmd r (takeFault c cmd r) := by
  by_cases hf : r.fsm = .sFaulted
  · exact .unchanged (takeFault_regs_of_faulted hf)
  · exact .fault hc hf

/-- A command performed, by its instruction. -/
theorem wordEffect_effect {cmd : Word} {i : Instr} {r : Regs} (hd : decode cmd = .ok i)
    (hp : r.fsm = .sFaulted → performedWhenFaulted i.op = true) (hc : check Config.hw i r = .fNone) :
    WordEffect cmd r (effect i r) := by
  obtain ⟨hwf, -, ho⟩ := (check_eq_none_iff _ _ _).1 hc
  cases i with
  | nop rsvd => exact .unchanged rfl
  | start rsvd mode =>
    obtain ⟨m, hm⟩ := modeOperand_of_wellFormed hwf
    rw [effect, startBody_of_modeOperand hm]
    exact .start m (isStartWord_of_decode hd hwf)
  | account len => exact .account (started_of_performed hp hc rfl) (len_ne_zero_of_wellFormed hwf) ho
  | extend rsvd => exact .extend (started_of_performed hp hc rfl) (eq_extendWord_of_decode hd hwf)
  | peek rsvd => exact .unchanged rfl
  | read rsvd reg => exact .unchanged (readBody_regs _ _ _)

/-- Everything an accepted word can do. -/
theorem replyWord_wordEffect (cmd : Word) (r : Regs) : WordEffect cmd r (replyWord cmd r) := by
  unfold replyWord
  cases hd : decode cmd with
  | error e =>
    by_cases hf : r.fsm = .sFaulted
    · simp only [hf, if_true]
      exact .unchanged rfl
    · simp only [hf, if_false]
      exact .fault (by decide) hf
  | ok i =>
    rcases reply_cases i r with ⟨-, -, h⟩ | ⟨-, hc, h⟩ | ⟨hp, hc, h⟩ <;> simp only [h]
    · exact .unchanged rfl
    · rw [encode_of_decode hd]
      exact wordEffect_takeFault hc
    · exact wordEffect_effect hd hp hc

/-- A step that changes a register is hardware reset or an accepted word. -/
theorem step_cases_of_regs_ne {s t : State} (h : step s = .next t) (hne : t.regs ≠ s.regs) :
    ∃ inp rest, s.inputs = inp :: rest ∧
      ((inp.rst = true ∧ t.regs = State.reset.regs) ∨
        (inp.rst = false ∧ inp.cmdValid = true ∧
          ∃ a, WordEffect inp.cmdWord s.regs a ∧ t.regs = a.1 ∧ t.resp = some a.2)) := by
  rcases step_cases h with
    ⟨-, rfl⟩ | ⟨inp, rest, hi, hr, rfl⟩ | ⟨inp, rest, hi, hr, rfl | rfl⟩ | ⟨inp, rest, hi, hr, hv, -, rfl⟩
  · exact absurd rfl hne
  · exact ⟨inp, rest, hi, .inl ⟨hr, rfl⟩⟩
  · exact absurd rfl hne
  · exact absurd rfl hne
  · exact ⟨inp, rest, hi, .inr ⟨hr, hv, _, replyWord_wordEffect _ _, rfl, rfl⟩⟩

end Machine
end Sys2Proof
end

section
/-! PROOFS. The register invariant of 10_state.md R22 to R29, one lemma for each way the registers change. -/
namespace Sys2Proof.Safety

open Sys2Proof.Machine

/-- The reset values meet the invariant (10_state.md R38). -/
theorem regsInv_reset : RegsInv State.reset.regs where
  range := by decide
  grew := by decide
  atcap := by decide
  resetMode := by decide
  baseline := by decide
  totals := by decide
  fault := by decide
  idle := by decide
  justReset := by decide

/-- The stream-start values meet the invariant in either mode (40_control.md R64). -/
theorem regsInv_beginRun (m : Mode) : RegsInv (beginRun Config.hw m) := by
  cases m <;> exact
    { range := by decide, grew := by decide, atcap := by decide, resetMode := by decide, baseline := by decide,
      totals := by decide, fault := by decide, idle := by decide, justReset := by decide }

/-- Fault entry writes STATE, FCAUSE and FCMD only, and S_FAULTED is neither started, idle nor just reset. -/
theorem RegsInv.takeFault {r : Regs} (h : RegsInv r) {c : Cause} (hc : c ≠ .fNone) (cmd : Word) :
    RegsInv (takeFault c cmd r).1 := by
  by_cases hf : r.fsm = .sFaulted
  · rwa [takeFault_regs_of_faulted hf]
  · rw [takeFault_regs_of_not_faulted hf]
    exact
      { range := ⟨nofun, h.range.2⟩
        grew := h.grew
        atcap := fun hs => absurd rfl hs.2
        resetMode := h.resetMode
        baseline := h.baseline
        totals := h.totals
        fault := ⟨⟨fun _ => hc, fun _ => rfl⟩, fun hn => absurd rfl hn⟩
        idle := nofun
        justReset := nofun }

/-! ### ACCOUNT -/

/-- Totals that Check lets through fit in 64 bits (60_exceptions.md R98). -/
theorem totals_fit {r : Regs} {len : Len} (hm : r.mode = .monitorMode) (ho : totalsOverflow Config.hw r len = false) :
    r.emitBits.toNat + r.w.toNat < 2 ^ 64 ∧ r.repBits.toNat + 8 * len.toNat < 2 ^ 64 := by
  simp only [totalsOverflow, hm, BEq.rfl, totalMax, Config.totalBits, Nat.reducePow, Nat.add_one_sub_one, gt_iff_lt,
    hw_symbolBits, lenOperand_eq, Bool.true_and, Bool.or_eq_false_iff, decide_eq_false_iff_not, not_lt] at ho
  omega

/-- The new EMIT_BITS is the exact sum when it fits. -/
theorem emitBits_add_toNat {e : Total} {w : Width} (h : e.toNat + w.toNat < 2 ^ 64) :
    (e + w.setWidth 64).toNat = e.toNat + w.toNat := by
  have hw := w.isLt
  rw [BitVec.toNat_add, BitVec.toNat_setWidth]
  omega

/-- The new REP_BITS is the exact sum when it fits. -/
theorem repBits_add_toNat {b : Total} {n : Nat} (h : b.toNat + n < 2 ^ 64) : (b + BitVec.ofNat 64 n).toNat = b.toNat + n := by
  rw [BitVec.toNat_add, BitVec.toNat_ofNat]
  omega

/-- ACCOUNT raises both totals above 0 and REP_BITS by a multiple of 8, and leaves the baseline (41_accounting.md R68). -/
theorem RegsInv.accountBody {r : Regs} (h : RegsInv r) (hs : Started r) {len : Len} (hlen : len ≠ 0)
    (ho : totalsOverflow Config.hw r len = false) : RegsInv (accountBody Config.hw len r).1 := by
  cases hm : r.mode with
  | resetMode => simpa [Machine.accountBody, hm] using h
  | monitorMode =>
    obtain ⟨hefit, hrfit⟩ := totals_fit hm ho
    have he := emitBits_add_toNat hefit
    have hr := repBits_add_toNat hrfit
    have hlen' : 0 < len.toNat := by bv_omega
    obtain ⟨-, hw9, -⟩ := h.range
    obtain ⟨-, h8, hbase⟩ := h.totals
    simp only [Machine.accountBody, hm, hw_symbolBits, lenOperand_eq]
    exact
      { range := h.range
        grew := h.grew
        atcap := h.atcap
        resetMode := by simp
        baseline := by
          refine ⟨fun hb => ?_, h.baseline.2⟩
          obtain ⟨hmode, hw, hnext, hbe, hbr⟩ := h.baseline.1 hb
          exact ⟨rfl, hw, hnext, by simp only [he]; omega, by simp only [hr]; omega⟩
        totals := by
          refine ⟨?_, by simp only [hr]; omega, hbase⟩
          simp only [← BitVec.toNat_inj, he, hr, BitVec.ofNat_eq_ofNat, BitVec.toNat_ofNat]
          omega
        fault := h.fault
        idle := fun hi => absurd hi hs.1
        justReset := h.justReset }

/-! ### EXTEND -/

/-- No baseline is held while a code is left. -/
theorem RegsInv.baseValid_eq_false {r : Regs} (h : RegsInv r) (hn : r.next.toNat < 65536) : r.baseValid = false := by
  by_contra hb
  obtain ⟨-, -, hnext, -⟩ := h.baseline.1 (by simpa using hb)
  omega

/-- No fault is recorded outside S_FAULTED. -/
theorem RegsInv.no_fault_of_started {r : Regs} (h : RegsInv r) (hs : Started r) : r.fcause = .fNone ∧ r.fcmd = 0 :=
  ⟨by_contra fun hc => hs.2 (h.fault.1.2 hc), h.fault.2 hs.2⟩

/-- At 16 bits no code is left exactly when NEXT is 65536. -/
theorem RegsInv.next_eq_of_full {r : Regs} (h : RegsInv r) (hfull : 2 ^ r.w.toNat ≤ r.next.toNat) (hw : 16 ≤ r.w.toNat) :
    r.w.toNat = 16 ∧ r.next.toNat = 65536 := by
  obtain ⟨-, -, hw16, -, hn⟩ := h.range
  have hw : r.w.toNat = 16 := by omega
  rw [hw] at hfull hn
  omega

/-- A baseline clause holds of registers without a baseline. -/
theorem baselineOnlyAtCapacity_of_none {r : Regs} (hv : r.baseValid = false) (he : r.baseEmit = 0) (hr : r.baseRep = 0) :
    BaselineOnlyAtCapacity r :=
  ⟨fun h => absurd (hv.symm.trans h) nofun, fun _ => ⟨he, hr⟩⟩

/-- The invariant of a run whose STATE is the one NextState gives to every outcome but O_RESET (42_policy.md R75). -/
theorem regsInv_of_nextFsm {r : Regs} (hfsm : r.fsm = if r.w.toNat = 16 ∧ r.next.toNat = 65536 then .sAtcap else .sGrowing)
    (range : 9 ≤ r.w.toNat ∧ r.w.toNat ≤ 16 ∧ 257 ≤ r.next.toNat ∧ r.next.toNat ≤ 2 ^ r.w.toNat)
    (grew : WidthGrewOnlyAtCapacity r) (resetMode : ResetModeTracksNothing r) (baseline : BaselineOnlyAtCapacity r)
    (totals : TotalsZeroTogether r) (hfault : r.fcause = .fNone ∧ r.fcmd = 0) : RegsInv r := by
  have hfsm' : r.fsm ≠ .sIdle ∧ r.fsm ≠ .sFaulted ∧ r.fsm ≠ .sReset := by
    rw [hfsm]
    split <;> simp
  obtain ⟨hidle, hfaulted, hreset⟩ := hfsm'
  exact
    { range := ⟨fun hi => absurd hi hidle, range⟩
      grew, resetMode, baseline, totals
      atcap := fun _ => by simp [hfsm]
      fault := ⟨iff_of_false hfaulted (not_not.2 hfault.1), fun _ => hfault.2⟩
      idle := fun hi => absurd hi hidle
      justReset := fun hr => absurd hr hreset }

/-- O_ASSIGNED advances NEXT to at most the capacity. -/
theorem RegsInv.extendRegs_assigned {r : Regs} (h : RegsInv r) (hs : Started r) (hlt : r.next.toNat < 2 ^ r.w.toNat) :
    RegsInv (extendRegs Config.hw r) := by
  obtain ⟨-, hw9, hw16, hlo, -⟩ := h.range
  have hcap : 2 ^ r.w.toNat ≤ 2 ^ 16 := Nat.pow_le_pow_right (by decide) hw16
  have hnext : (r.next + 1).toNat = r.next.toNat + 1 := by bv_omega
  have hb := h.baseValid_eq_false (by omega)
  obtain ⟨hbe, hbr⟩ := h.baseline.2 hb
  rw [Machine.extendRegs_assigned hlt]
  refine regsInv_of_nextFsm rfl ⟨hw9, hw16, ?_, ?_⟩ (fun hg => ?_) h.resetMode (baselineOnlyAtCapacity_of_none hb hbe hbr)
    h.totals (h.no_fault_of_started hs)
  · simp only [hnext]
    omega
  · simp only [hnext]
    omega
  · have := h.grew hg
    simp only [hnext]
    omega

/-- O_GREW at `NEXT = 2^W` leaves `NEXT = 2^W + 1` at width `W + 1`. -/
theorem RegsInv.extendRegs_grew {r : Regs} (h : RegsInv r) (hs : Started r) (hfull : 2 ^ r.w.toNat ≤ r.next.toNat)
    (hw : r.w.toNat < 16) : RegsInv (extendRegs Config.hw r) := by
  obtain ⟨-, hw9, -, hlo, hhi⟩ := h.range
  have hcap : 2 ^ r.w.toNat ≤ 2 ^ 15 := Nat.pow_le_pow_right (by decide) (by omega)
  have hnext : (r.next + 1).toNat = r.next.toNat + 1 := by bv_omega
  have hwidth : (r.w + 1).toNat = r.w.toNat + 1 := width_succ_toNat (p := Config.hw) le_rfl hw
  have hb := h.baseValid_eq_false (by omega)
  obtain ⟨hbe, hbr⟩ := h.baseline.2 hb
  rw [Machine.extendRegs_grew hfull hw]
  refine regsInv_of_nextFsm rfl ⟨?_, ?_, ?_, ?_⟩ (fun _ => ?_) h.resetMode (baselineOnlyAtCapacity_of_none hb hbe hbr)
    h.totals (h.no_fault_of_started hs)
  · simp only [hwidth]
    omega
  · simp only [hwidth]
    omega
  · simp only [hnext]
    omega
  · simp only [hnext, hwidth, pow_succ]
    omega
  · simp only [hnext, hwidth, Nat.add_sub_cancel]
    omega

/-- O_RESET leaves the first code assigned at width W0, nothing tracked and no baseline. -/
theorem RegsInv.extendRegs_reset {r : Regs} (h : RegsInv r) (hs : Started r) (hfull : 2 ^ r.w.toNat ≤ r.next.toNat)
    (hw : 16 ≤ r.w.toNat) (hr : r.mode = .resetMode ∨ (r.baseValid = true ∧ exceeds Config.hw r = true)) :
    RegsInv (extendRegs Config.hw r) := by
  obtain ⟨hcause, hcmd⟩ := h.no_fault_of_started hs
  rw [Machine.extendRegs_reset hfull hw hr]
  exact
    { range := ⟨nofun, by simp⟩
      grew := by simp
      atcap := by simp
      resetMode := fun _ => ⟨rfl, rfl, rfl, rfl, rfl⟩
      baseline := baselineOnlyAtCapacity_of_none rfl rfl rfl
      totals := ⟨iff_of_true rfl rfl, rfl, iff_of_true rfl rfl, rfl⟩
      fault := ⟨iff_of_false nofun (not_not.2 hcause), fun _ => hcmd⟩
      idle := nofun
      justReset := fun _ => ⟨rfl, rfl⟩ }

/-- O_NOOP_BASELINE copies the totals at capacity. -/
theorem RegsInv.extendRegs_baseline {r : Regs} (h : RegsInv r) (hs : Started r) (hfull : 2 ^ r.w.toNat ≤ r.next.toNat)
    (hw : 16 ≤ r.w.toNat) (hm : r.mode = .monitorMode) (hb : r.baseValid = false) : RegsInv (extendRegs Config.hw r) := by
  obtain ⟨hw16, hnext⟩ := h.next_eq_of_full hfull hw
  obtain ⟨hzero, h8, -⟩ := h.totals
  rw [Machine.extendRegs_baseline hfull hw hm hb]
  refine regsInv_of_nextFsm rfl h.range.2 h.grew (fun hm' => ?_) ⟨fun _ => ⟨hm, hw16, hnext, le_rfl, le_rfl⟩, nofun⟩
    ⟨hzero, h8, hzero, h8⟩ (h.no_fault_of_started hs)
  exact absurd (hm.symm.trans hm') nofun

/-- O_NOOP_KEEP writes STATE only. -/
theorem RegsInv.extendRegs_keep {r : Regs} (h : RegsInv r) (hs : Started r) (hfull : 2 ^ r.w.toNat ≤ r.next.toNat)
    (hw : 16 ≤ r.w.toNat) (hm : r.mode = .monitorMode) (hb : r.baseValid = true) (he : exceeds Config.hw r = false) :
    RegsInv (extendRegs Config.hw r) := by
  rw [Machine.extendRegs_keep hfull hw hm hb he]
  exact regsInv_of_nextFsm rfl h.range.2 h.grew h.resetMode h.baseline h.totals (h.no_fault_of_started hs)

/-- EXTEND keeps the invariant, by its five outcomes. -/
theorem RegsInv.extendRegs {r : Regs} (h : RegsInv r) (hs : Started r) : RegsInv (extendRegs Config.hw r) := by
  rcases decision_conditions Config.hw r with hlt | ⟨hf, hw⟩ | ⟨hf, hw, hr⟩ | ⟨hf, hw, hm, hb⟩ | ⟨hf, hw, hm, hb, he⟩
  · exact h.extendRegs_assigned hs hlt
  · exact h.extendRegs_grew hs hf hw
  · exact h.extendRegs_reset hs hf hw hr
  · exact h.extendRegs_baseline hs hf hw hm hb
  · exact h.extendRegs_keep hs hf hw hm hb he

/-- Every accepted word keeps the register invariant. -/
theorem RegsInv.wordEffect {cmd : Word} {r : Regs} (h : RegsInv r) {a : Regs × Response} (ha : WordEffect cmd r a) :
    RegsInv a.1 := by
  cases ha with
  | unchanged hu => rwa [hu]
  | fault hc _ => exact h.takeFault hc cmd
  | start m _ => exact regsInv_beginRun m
  | account hs hlen ho => exact h.accountBody hs hlen ho
  | extend hs _ => exact h.extendRegs hs

/-! ### The pending response -/

/-- A response without a code says nothing of codes. -/
theorem responseInv_of_code_none {q : Response} (h : q.code = none) : ResponseInv q :=
  fun _ hc => absurd (h.symm.trans hc) nofun

/-- The code a decision names is assignable at the width the response reports, in the 16 bits of `resp_code`. -/
theorem RegsInv.peekBody_responseInv {r : Regs} (h : RegsInv r) : ResponseInv (peekBody Config.hw r).2 := by
  obtain ⟨-, hw9, hw16, hlo, hhi⟩ := h.range
  obtain ⟨-, hd16, hcode⟩ := decision_inRange hw_legal le_rfl hw9 hw16 hlo hhi
  intro c hc
  obtain ⟨d, hd, rfl⟩ := Option.map_eq_some_iff.1 hc
  obtain ⟨hd257, hdlt⟩ := hcode d hd
  have hcap : 2 ^ (decision Config.hw r).w.toNat ≤ 2 ^ 16 := Nat.pow_le_pow_right (by decide) hd16
  have hfit : (d.setWidth 16).toNat = d.toNat := by
    rw [BitVec.toNat_setWidth]
    exact Nat.mod_eq_of_lt (hdlt.trans_le hcap)
  rw [hfit]
  exact ⟨rfl, hd257, hdlt⟩

/-- A command's own response keeps the response invariant: only EXTEND and PEEK name a code. -/
theorem RegsInv.effect_responseInv {r : Regs} (h : RegsInv r) (i : Instr) : ResponseInv (effect i r).2 := by
  cases i with
  | nop rsvd => exact responseInv_of_code_none rfl
  | start rsvd mode =>
    refine responseInv_of_code_none ?_
    simp only [effect, startBody]
    split <;> rfl
  | account len =>
    refine responseInv_of_code_none ?_
    simp only [effect, Machine.accountBody]
    split <;> rfl
  | extend rsvd =>
    rw [effect, extendBody_resp]
    exact h.peekBody_responseInv
  | peek rsvd => exact h.peekBody_responseInv
  | read rsvd reg =>
    refine responseInv_of_code_none ?_
    simp only [effect, readBody]
    split <;> rfl

/-- Every accepted word's response keeps the response invariant. -/
theorem RegsInv.replyWord_responseInv {r : Regs} (h : RegsInv r) (cmd : Word) : ResponseInv (replyWord cmd r).2 := by
  unfold replyWord
  split
  · rename_i i _
    rcases reply_cases i r with ⟨-, -, hi⟩ | ⟨-, -, hi⟩ | ⟨-, -, hi⟩ <;> rw [hi]
    · exact responseInv_of_code_none rfl
    · exact responseInv_of_code_none rfl
    · exact h.effect_responseInv i
  · split <;> exact responseInv_of_code_none rfl

/-- An accepted word keeps the invariant. -/
theorem Inv.answer_replyWord {s : State} (h : Inv s) (cmd : Word) (rest : List PortInput) :
    Inv (State.answer { s with inputs := rest } (replyWord cmd s.regs)) where
  regs := h.regs.wordEffect (replyWord_wordEffect cmd s.regs)
  resp q hq := by
    obtain rfl := Option.some.inj hq
    exact h.regs.replyWord_responseInv cmd

/-- With no response pending the invariant is the registers'. -/
theorem inv_of_resp_none {s : State} (h : RegsInv s.regs) (hr : s.resp = none) : Inv s :=
  ⟨h, fun _ hq => absurd (hr.symm.trans hq) nofun⟩

/-- Every step keeps the invariant. -/
theorem Inv.step {s t : State} (h : Inv s) (hst : step s = .next t) : Inv t := by
  rcases step_cases hst with ⟨-, rfl⟩ | ⟨_, _, -, -, rfl⟩ | ⟨_, _, -, -, rfl | rfl⟩ | ⟨inp, rest, -, -, -, -, rfl⟩
  · exact h
  · exact inv_of_resp_none regsInv_reset rfl
  · exact ⟨h.regs, h.resp⟩
  · exact inv_of_resp_none h.regs rfl
  · exact h.answer_replyWord inp.cmdWord rest

end Sys2Proof.Safety
end

section
/-! PROOFS. What writes BASE_VALID, FCAUSE and FCMD, and the layout of STATUS (10_state.md R22, R23, R32, R34). -/
namespace Sys2Proof.Machine

open Sys2Proof.Safety

/-! ### BASE_VALID -/

/-- An EXTEND that changes BASE_VALID sets it with O_NOOP_BASELINE or clears it with O_RESET (42_policy.md R74). -/
theorem extendRegs_baseValid_ne {r : Regs} (h : (extendRegs Config.hw r).baseValid ≠ r.baseValid) :
    ((extendRegs Config.hw r).baseValid = true ∧ (decision Config.hw r).outcome = .oNoopBaseline) ∨
    ((extendRegs Config.hw r).baseValid = false ∧ (decision Config.hw r).outcome = .oReset) := by
  simp only [extendRegs] at h ⊢
  cases ho : (decision Config.hw r).outcome <;> simp_all [applyDecision]

/-- ACCOUNT leaves BASE_VALID (10_state.md R32). -/
@[simp] theorem accountBody_baseValid (p : Config.Params) (len : Len) (r : Regs) :
    (accountBody p len r).1.baseValid = r.baseValid := by
  unfold accountBody
  split <;> rfl

/-- A word that changes BASE_VALID is EXTEND, answered O_NOOP_BASELINE or O_RESET, or START. -/
theorem WordEffect.baseValid_ne {cmd : Word} {r : Regs} {a : Regs × Response} (ha : WordEffect cmd r a)
    (h : a.1.baseValid ≠ r.baseValid) :
    (a.1.baseValid = true ∧ cmd = 0x30000000 ∧ a.2.outcome = .oNoopBaseline) ∨
    (a.1.baseValid = false ∧ (IsStartWord cmd ∨ (cmd = 0x30000000 ∧ a.2.outcome = .oReset))) := by
  cases ha with
  | unchanged hu => simp [hu] at h
  | fault _ hf => simp [takeFault_regs_of_not_faulted hf] at h
  | start m hcmd => exact .inr ⟨rfl, .inl hcmd⟩
  | account _ _ _ => simp at h
  | extend _ hcmd =>
    rcases extendRegs_baseValid_ne h with ⟨hv, ho⟩ | ⟨hv, ho⟩
    · exact .inl ⟨hv, hcmd, ho⟩
    · exact .inr ⟨hv, .inr ⟨hcmd, ho⟩⟩

/-! ### FCAUSE and FCMD -/

/-- ACCOUNT leaves the fault record. -/
theorem accountBody_fault_record (p : Config.Params) (len : Len) (r : Regs) :
    (accountBody p len r).1.fcause = r.fcause ∧ (accountBody p len r).1.fcmd = r.fcmd := by
  unfold accountBody
  split <;> exact ⟨rfl, rfl⟩

/-- A word that changes the fault record enters S_FAULTED and is recorded, or is START. -/
theorem WordEffect.fault_record_ne {cmd : Word} {r : Regs} {a : Regs × Response} (ha : WordEffect cmd r a)
    (h : a.1.fcause ≠ r.fcause ∨ a.1.fcmd ≠ r.fcmd) :
    (r.fsm ≠ .sFaulted ∧ a.1.fsm = .sFaulted ∧ a.1.fcmd = cmd) ∨
    (a.1.fcause = .fNone ∧ a.1.fcmd = 0 ∧ IsStartWord cmd) := by
  cases ha with
  | unchanged hu => simp [hu] at h
  | fault _ hf =>
    rw [takeFault_regs_of_not_faulted hf]
    exact .inl ⟨hf, rfl, rfl⟩
  | start m hcmd => exact .inr ⟨rfl, rfl, hcmd⟩
  | account _ _ _ => simp [accountBody_fault_record] at h
  | extend _ _ => simp [extendBody, extendRegs_keeps] at h

/-! ### STATUS -/

/-- Concatenation puts the high part above the low one. -/
theorem append_toNat {n m : Nat} (x : BitVec n) (y : BitVec m) : (x ++ y).toNat = 2 ^ m * x.toNat + y.toNat := by
  rw [BitVec.toNat_append, ← Nat.shiftLeft_add_eq_or_of_lt y.isLt, Nat.shiftLeft_eq, Nat.mul_comm]

/-- STATUS by its fields (10_state.md R34). -/
theorem statusWord_toNat (r : Regs) :
    (statusWord r).toNat =
      r.fsm.code.toNat + 8 * r.mode.code.toNat + 16 * r.baseValid.toNat + 256 * r.fcause.code.toNat + 65536 * r.w.toNat := by
  simp only [statusWord, append_toNat, BitVec.toNat_ofBool, BitVec.toNat_ofNat]
  omega

/-- A legal START leaves the stream-start values, whatever the state (40_control.md R64). -/
theorem exec_start_regs {mode : BitVec 2} {m : Mode} (hm : modeOperand mode = some m) (hl : (Instr.start 0 mode).WellFormed)
    {s t : State} (h : exec (.start 0 mode) s = .next t) : t.regs = beginRun Config.hw m := by
  have hc : check Config.hw (.start 0 mode) s.regs = .fNone := (check_eq_none_iff _ _ _).2 ⟨hl, nofun, rfl⟩
  rw [exec_of_performed (fun _ => rfl) hc] at h
  cases h
  rw [answer_regs, effect, startBody_of_modeOperand hm]

end Sys2Proof.Machine

namespace Sys2Proof.Proofs

open Sys2Proof.Machine Sys2Proof.Safety

/-- Settles O38, by the cases of a step and of an accepted word. -/
theorem stepKeepsInv : Obligations.StepKeepsInv := fun _ _ => Inv.step

/-- Settles O27, by the fields of the concatenation and the stream-start values. -/
theorem statusLayout : Obligations.StatusLayout := by
  refine ⟨statusWord_toNat, by decide, fun s t h => ?_, fun s t h => ?_⟩
  · rw [exec_start_regs (m := .resetMode) rfl rfl h]
    decide
  · rw [exec_start_regs (m := .monitorMode) rfl rfl h]
    decide

/-- Settles O30, by what a step that changes the registers is. -/
theorem baseValidWrittenOnlyBy : Obligations.BaseValidWrittenOnlyBy := by
  intro s t hst hne
  obtain ⟨inp, rest, hi, hcase⟩ := step_cases_of_regs_ne hst fun h => hne (by rw [h])
  refine ⟨inp, rest, hi, ?_⟩
  rcases hcase with ⟨hr, ht⟩ | ⟨hr, hv, a, ha, ht, hq⟩ <;> rw [ht] at hne ⊢
  · exact .inr ⟨rfl, .inl hr⟩
  · rcases ha.baseValid_ne hne with ⟨hb, hcmd, ho⟩ | ⟨hb, hcmd | ⟨hcmd, ho⟩⟩
    · exact .inl ⟨hb, hr, hv, hcmd, a.2, hq, ho⟩
    · exact .inr ⟨hb, .inr (.inl ⟨hv, hcmd⟩)⟩
    · exact .inr ⟨hb, .inr (.inr ⟨hv, hcmd, a.2, hq, ho⟩)⟩

/-- Settles O31, by what a step that changes the registers is. -/
theorem faultRecordWrittenOnlyBy : Obligations.FaultRecordWrittenOnlyBy := by
  intro s t hst hne
  obtain ⟨inp, rest, hi, hcase⟩ := step_cases_of_regs_ne hst fun h => by simp [h] at hne
  refine ⟨inp, rest, hi, ?_⟩
  rcases hcase with ⟨hr, ht⟩ | ⟨-, hv, a, ha, ht, -⟩ <;> rw [ht] at hne ⊢
  · exact .inr ⟨rfl, rfl, .inl hr⟩
  · rcases ha.fault_record_ne hne with hfault | ⟨hc, hf, hcmd⟩
    · exact .inl hfault
    · exact .inr ⟨hc, hf, .inr ⟨hv, hcmd⟩⟩

/-- Settles O37, by the reset values, with no response pending. -/
theorem invAtReset : Obligations.InvAtReset := inv_of_resp_none regsInv_reset rfl

end Sys2Proof.Proofs
end

section
/-! PROOFS. The encoding of command words: the two round trips, the rows of the opcode map and the operand fields
(30_encoding.md R50 to R52). -/
namespace Sys2Proof

open Sys2Proof.Machine Sys2Proof.Safety

/-! ### The round trips -/

/-- The command a row of the opcode map reads from a word, its fields by the row's format (30_encoding.md R50). -/
def Op.row (op : Op) (cmd : Word) : Instr :=
  match op with
  | .nop => .nop (cmd.extractLsb' 0 28)
  | .start => .start (cmd.extractLsb' 2 26) (cmd.extractLsb' 0 2)
  | .account => .account (cmd.extractLsb' 0 28)
  | .extend => .extend (cmd.extractLsb' 0 28)
  | .peek => .peek (cmd.extractLsb' 0 28)
  | .read => .read (cmd.extractLsb' 4 24) (cmd.extractLsb' 0 4)

/-- A word with a row's opcode decodes by that row (30_encoding.md R52). -/
theorem decode_of_opField {cmd : Word} {op : Op} (h : opField cmd = op.bits) : decode cmd = .ok (op.row cmd) := by
  cases op <;> simp [decode, h, Op.bits, Op.row]

/-- The opcode field of a command's encoding is its row's number. -/
theorem opField_encode (i : Instr) : opField (encode i) = i.op.bits := by
  cases i with
  | nop rsvd => exact Laws.OpcodeField.nop rsvd
  | start rsvd mode => exact Laws.OpcodeField.start rsvd mode
  | account len => exact Laws.OpcodeField.account len
  | extend rsvd => exact Laws.OpcodeField.extend rsvd
  | peek rsvd => exact Laws.OpcodeField.peek rsvd
  | read rsvd reg => exact Laws.OpcodeField.read rsvd reg

/-- The low of two fields below an opcode. -/
theorem extractLsb'_append_low {k m n : Nat} (op : BitVec k) (hi : BitVec m) (lo : BitVec n) :
    (op ++ (hi ++ lo)).extractLsb' 0 n = lo := by
  rw [BitVec.extractLsb'_append_eq_of_add_le (by omega), BitVec.extractLsb'_append_eq_right]

/-- The high of two fields below an opcode. -/
theorem extractLsb'_append_high {k m n : Nat} (op : BitVec k) (hi : BitVec m) (lo : BitVec n) :
    (op ++ (hi ++ lo)).extractLsb' n m = hi := by
  rw [BitVec.extractLsb'_append_eq_of_add_le (by omega), BitVec.extractLsb'_append_eq_left]

/-- A command's row reads from its encoding the operands and reserved bits it was made from. -/
theorem row_encode (i : Instr) : i.op.row (encode i) = i := by
  cases i with
  | nop rsvd => exact congrArg Instr.nop BitVec.extractLsb'_append_eq_right
  | start rsvd mode => exact congrArg₂ Instr.start (extractLsb'_append_high _ rsvd mode) (extractLsb'_append_low _ rsvd mode)
  | account len => exact congrArg Instr.account BitVec.extractLsb'_append_eq_right
  | extend rsvd => exact congrArg Instr.extend BitVec.extractLsb'_append_eq_right
  | peek rsvd => exact congrArg Instr.peek BitVec.extractLsb'_append_eq_right
  | read rsvd reg => exact congrArg₂ Instr.read (extractLsb'_append_high _ rsvd reg) (extractLsb'_append_low _ rsvd reg)

/-- A command is what its encoding decodes to, so no two commands share a word. -/
theorem decode_encode (i : Instr) : decode (encode i) = .ok i := by
  rw [decode_of_opField (opField_encode i), row_encode]

/-- A decoded command is what its row reads from the word. -/
theorem row_of_decode {cmd : Word} {i : Instr} (h : decode cmd = .ok i) : i.op.row cmd = i := by
  rw [← encode_of_decode h, row_encode]

/-! ### The opcode map -/

/-- A decoded word's opcode number is its command's. -/
theorem opNumber_of_decode {cmd : Word} {i : Instr} (h : decode cmd = .ok i) : opNumber cmd = i.op.bits.toNat := by
  rw [← opField_toNat, ← encode_of_decode h, opField_encode]

/-- The opcode mask of R52 keeps the whole opcode field. -/
theorem opField_and_opMask (cmd : Word) : opField (cmd &&& 0xF0000000) = opField cmd := by
  unfold opField
  rw [BitVec.extractLsb'_and, show BitVec.extractLsb' 28 4 (0xF0000000 : Word) = BitVec.allOnes 4 by decide, BitVec.and_allOnes]

/-- A word that meets a row's match under the opcode mask decodes by that row (30_encoding.md R52). -/
theorem decode_of_match {cmd m : Word} (h : cmd &&& 0xF0000000 = m) (op : Op) (hm : opField m = op.bits) :
    decode cmd = .ok (op.row cmd) :=
  decode_of_opField (by rw [← opField_and_opMask, h, hm])

/-- Opcodes 6 to 15 select no row (30_encoding.md R52). -/
theorem decode_of_six_le {cmd : Word} (h : 6 ≤ opNumber cmd) : decode cmd = .error (.illegalOp (opField cmd)) := by
  rcases decode_cases cmd with
    ⟨hop, -⟩ | ⟨hop, -⟩ | ⟨hop, -⟩ | ⟨hop, -⟩ | ⟨hop, -⟩ | ⟨hop, -⟩ | ⟨-, hd⟩
  case inr.inr.inr.inr.inr.inr => exact hd
  all_goals omega

/-- Opcodes 0 to 5 select a row (30_encoding.md R52). -/
theorem exists_decode_of_lt_six {cmd : Word} (h : opNumber cmd < 6) : ∃ i, decode cmd = .ok i := by
  rcases decode_cases cmd with
    ⟨-, hd⟩ | ⟨-, hd⟩ | ⟨-, hd⟩ | ⟨-, hd⟩ | ⟨-, hd⟩ | ⟨-, hd⟩ | ⟨hop, -⟩
  case inr.inr.inr.inr.inr.inr => omega
  all_goals exact ⟨_, hd⟩

/-! ### Reserved bits -/

/-- The word with ones in the `n` bits from bit `lo` up. -/
def fieldMask (lo n : Nat) : Word := (BitVec.allOnes n).setWidth 32 <<< lo

/-- The bits of a field's mask. -/
theorem getLsbD_fieldMask {lo n k : Nat} (hk : k < 32) : (fieldMask lo n).getLsbD k = decide (lo ≤ k ∧ k - lo < n) := by
  rw [Bool.eq_iff_iff]
  simp [fieldMask, hk]

/-- A word has no bit under a field's mask exactly when the field is 0. -/
theorem and_fieldMask_eq_zero_iff (cmd : Word) (lo n : Nat) : cmd &&& fieldMask lo n = 0 ↔ cmd.extractLsb' lo n = 0 := by
  constructor
  · intro h
    refine BitVec.eq_of_getLsbD_eq fun j hj => ?_
    by_cases hk : lo + j < 32
    · have hbit := congrArg (fun x : Word => x.getLsbD (lo + j)) h
      simpa [getLsbD_fieldMask hk, hj] using hbit
    · simp [BitVec.getLsbD_of_ge cmd (lo + j) (by omega)]
  · intro h
    refine BitVec.eq_of_getLsbD_eq fun k hk => ?_
    by_cases hin : lo ≤ k ∧ k - lo < n
    · have hbit := congrArg (fun x : BitVec n => x.getLsbD (k - lo)) h
      have hcmd : cmd.getLsbD k = false := by simpa [hin, Nat.add_sub_cancel' hin.1] using hbit
      simp [hcmd]
    · rw [BitVec.getLsbD_and, getLsbD_fieldMask hk, decide_eq_false hin, Bool.and_false]
      exact BitVec.getLsbD_zero.symm

/-- The reserved bits of a command are 0 exactly when its word has no bit under its format's mask (30_encoding.md R50). -/
theorem reservedClear_iff {cmd : Word} {i : Instr} (h : decode cmd = .ok i) :
    i.reservedClear = true ↔ cmd &&& rsvdMaskOf (opNumber cmd) = 0 := by
  have hrow := row_of_decode h
  rw [opNumber_of_decode h]
  cases i with
  | nop rsvd =>
    obtain rfl := Instr.nop.inj hrow
    exact beq_iff_eq.trans (and_fieldMask_eq_zero_iff cmd 0 28).symm
  | start rsvd mode =>
    obtain ⟨rfl, -⟩ := Instr.start.inj hrow
    exact beq_iff_eq.trans (and_fieldMask_eq_zero_iff cmd 2 26).symm
  | account len => exact iff_of_true rfl BitVec.and_zero
  | extend rsvd =>
    obtain rfl := Instr.extend.inj hrow
    exact beq_iff_eq.trans (and_fieldMask_eq_zero_iff cmd 0 28).symm
  | peek rsvd =>
    obtain rfl := Instr.peek.inj hrow
    exact beq_iff_eq.trans (and_fieldMask_eq_zero_iff cmd 0 28).symm
  | read rsvd reg =>
    obtain ⟨rfl, -⟩ := Instr.read.inj hrow
    exact beq_iff_eq.trans (and_fieldMask_eq_zero_iff cmd 4 24).symm

/-! ### Legal words -/

/-- The words that decode to a legal command are the ones R52 lists, row by row. -/
theorem legalWord_iff (cmd : Word) :
    (∃ i : Instr, decode cmd = .ok i ∧ i.WellFormed) ↔
      cmd = 0x00000000 ∨ cmd = 0x10000000 ∨ cmd = 0x10000001 ∨
      (0x20000001 ≤ cmd.toNat ∧ cmd.toNat ≤ 0x2FFFFFFF) ∨ cmd = 0x30000000 ∨ cmd = 0x40000000 ∨
      (0x50000000 ≤ cmd.toNat ∧ cmd.toNat ≤ 0x5000000A) := by
  simp only [← BitVec.toNat_inj]
  rcases decode_cases cmd with
    ⟨hop, hd⟩ | ⟨hop, hd⟩ | ⟨hop, hd⟩ | ⟨hop, hd⟩ | ⟨hop, hd⟩ | ⟨hop, hd⟩ | ⟨hop, hd⟩
  all_goals
    rw [hd]
    unfold opNumber at hop
    simp [wellFormed_iff, Instr.reservedClear, Instr.modeLegal, Instr.regLegal, Instr.lenLegal, ← BitVec.toNat_inj,
      BitVec.extractLsb'_toNat, Nat.shiftRight_eq_div_pow]
    omega

/-! ### What a decoded word does -/

/-- An accepted word runs the command it decodes to. -/
theorem runWord_of_decode {cmd : Word} {i : Instr} (h : decode cmd = .ok i) (s : State) : runWord cmd s = exec i s := by
  rw [runWord_eq, exec_eq, replyWord, h]

/-- Outside S_FAULTED a word whose command has a cause faults with it, and the word is the one recorded (60_exceptions.md R100). -/
theorem runWord_of_fault {cmd : Word} {i : Instr} {s : State} {c : Cause} (h : decode cmd = .ok i) (hs : s.regs.fsm ≠ .sFaulted)
    (hc : check Config.hw i s.regs = c) (hne : c ≠ .fNone) : runWord cmd s = .next (faulted c cmd s) := by
  rw [runWord_of_decode h, exec_of_fault (fun hf => absurd hf hs) hc hne, encode_of_decode h]

/-- Outside S_FAULTED a word whose opcode selects no row faults F_ILLEGAL_OP (30_encoding.md R58). -/
theorem runWord_of_six_le {cmd : Word} {s : State} (h : 6 ≤ opNumber cmd) (hs : s.regs.fsm ≠ .sFaulted) :
    runWord cmd s = .next (faulted .fIllegalOp cmd s) := by
  rw [runWord_eq, replyWord, decode_of_six_le h, ← answer_takeFault]
  simp only [hs, if_false]

/-! ### The operand fields -/

/-- The value of the lowest bits of a word. -/
theorem extractLsb'_zero_toNat (cmd : Word) (n : Nat) : (cmd.extractLsb' 0 n).toNat = cmd.toNat % 2 ^ n := by
  rw [BitVec.extractLsb'_toNat, Nat.shiftRight_zero]

/-- MODE is `cmd[1:0]` (30_encoding.md R51). -/
theorem mode_toNat_of_decode {cmd : Word} {rsvd : BitVec 26} {mode : BitVec 2} (h : decode cmd = .ok (.start rsvd mode)) :
    mode.toNat = cmd.toNat % 4 := by
  obtain ⟨-, rfl⟩ := Instr.start.inj (row_of_decode h)
  exact extractLsb'_zero_toNat cmd 2

/-- LEN is `cmd[27:0]`. -/
theorem len_toNat_of_decode {cmd : Word} {len : Len} (h : decode cmd = .ok (.account len)) :
    len.toNat = cmd.toNat % 2 ^ 28 := by
  obtain rfl := Instr.account.inj (row_of_decode h)
  exact extractLsb'_zero_toNat cmd 28

/-- REG is `cmd[3:0]`. -/
theorem reg_toNat_of_decode {cmd : Word} {rsvd : BitVec 24} {reg : BitVec 4} (h : decode cmd = .ok (.read rsvd reg)) :
    reg.toNat = cmd.toNat % 16 := by
  obtain ⟨-, rfl⟩ := Instr.read.inj (row_of_decode h)
  exact extractLsb'_zero_toNat cmd 4

/-- A mode operand that names a mode is that mode's number. -/
theorem modeOperand_eq_some_iff (mode : BitVec 2) (m : Mode) : modeOperand mode = some m ↔ mode.toNat = m.code.toNat := by
  cases m <;> revert mode <;> decide

/-- The mode accepted is written to MODE as `cmd[0]` (30_encoding.md R51). -/
theorem mode_code_of_decode {cmd : Word} {rsvd : BitVec 26} {mode : BitVec 2} {m : Mode}
    (h : decode cmd = .ok (.start rsvd mode)) (hm : modeOperand mode = some m) : m.code = BitVec.ofBool (cmd.getLsbD 0) := by
  have hmode := mode_toNat_of_decode h
  have hcode := (modeOperand_eq_some_iff mode m).1 hm
  have hlt := m.code.isLt
  apply BitVec.eq_of_toNat_eq
  rw [BitVec.toNat_ofBool, BitVec.getLsbD, Nat.toNat_testBit]
  omega

/-- The registers that READ names have the numbers below 0xB (10_state.md R33). -/
theorem isSome_regOperand_iff : ∀ reg : BitVec 4, (regOperand reg).isSome = true ↔ reg.toNat < 0xB := by decide

/-- START with no reserved bit set and an operand that names a mode writes that mode, in every state (40_control.md R64). -/
theorem runWord_start_mode {cmd : Word} {mode : BitVec 2} {m : Mode} (h : decode cmd = .ok (.start 0 mode))
    (hm : modeOperand mode = some m) (s : State) : ∃ t, runWord cmd s = .next t ∧ t.regs.mode = m := by
  have hwf : (Instr.start 0 mode).WellFormed := by
    have hm' := (modeOperand_eq_some_iff mode m).1 hm
    simp [wellFormed_iff, Instr.reservedClear, Instr.modeLegal, Instr.regLegal, Instr.lenLegal]
    omega
  refine ⟨_, runWord_eq cmd s, ?_⟩
  rw [exec_start_regs hm hwf (by rw [← runWord_of_decode h, runWord_eq])]
  rfl

end Sys2Proof

namespace Sys2Proof.Proofs

open Sys2Proof.Machine Sys2Proof.Safety

/-- Settles O1, by the opcode, which selects the command's row, and the fields that row reads. -/
theorem decodeOfEncode : Obligations.DecodeOfEncode := decode_encode

/-- Settles O2, by the cases of the decoder. -/
theorem encodeOfDecode : Obligations.EncodeOfDecode := fun _ _ => encode_of_decode

/-- Settles O3, by the opcode field, the masks of the reserved bits and the rows of the decoder. -/
theorem opcodeMap : Obligations.OpcodeMap := by
  intro cmd
  refine ⟨fun h => ⟨_, decode_of_match h .nop (by decide)⟩, fun h => ⟨_, _, decode_of_match h .start (by decide)⟩,
    fun h => ⟨_, decode_of_match h .account (by decide)⟩, fun h => ⟨_, decode_of_match h .extend (by decide)⟩,
    fun h => ⟨_, decode_of_match h .peek (by decide)⟩, fun h => ⟨_, _, decode_of_match h .read (by decide)⟩,
    fun h => ⟨decode_of_six_le h, fun s hs => runWord_of_six_le h hs⟩, fun hlt hrsvd s hs => ?_, legalWord_iff cmd⟩
  obtain ⟨i, hd⟩ := exists_decode_of_lt_six hlt
  have hi : i.reservedClear = false := Bool.eq_false_iff.2 ((reservedClear_iff hd).not.2 hrsvd)
  exact runWord_of_fault hd hs (check_of_reserved hi) nofun

/-- Settles O4, by the fields of the encoding and the order of Check's causes. -/
theorem operandFields : Obligations.OperandFields := by
  refine ⟨fun cmd rsvd mode hd => ?_, fun cmd len hd => ?_, fun cmd rsvd reg hd => ?_⟩
  · have hmode := mode_toNat_of_decode hd
    refine ⟨hmode, fun h => (modeOperand_eq_some_iff _ _).2 h, fun h => (modeOperand_eq_some_iff _ _).2 h,
      fun m hm => ⟨mode_code_of_decode hd hm, ?_⟩, fun h2 hrsvd s hs => ?_⟩
    · rintro rfl
      exact runWord_start_mode hd hm
    · subst hrsvd
      exact runWord_of_fault hd hs (check_of_mode rfl (decide_eq_false (Nat.not_lt.2 h2))) nofun
  · have hlen := len_toNat_of_decode hd
    rw [lenOperand_eq]
    refine ⟨hlen, fun h0 s hs => ?_, fun h0 => by omega⟩
    obtain rfl : len = 0 := BitVec.eq_of_toNat_eq h0
    exact runWord_of_fault hd hs (check_of_len rfl rfl rfl rfl) nofun
  · refine ⟨reg_toNat_of_decode hd, (isSome_regOperand_iff reg).2, fun hB hrsvd s hs => ?_⟩
    subst hrsvd
    exact runWord_of_fault hd hs (check_of_reg rfl rfl (decide_eq_false (Nat.not_lt.2 hB))) nofun

end Sys2Proof.Proofs
end

section
/-! PROOFS. The response to an accepted word, and the handshake of the ports (30_encoding.md R54, R55). -/
namespace Sys2Proof.Machine

open Sys2Proof.Safety

/-- The fields of a response to `cmd` (30_encoding.md R55): only EXTEND and PEEK report an outcome or a code, only READ data. -/
def ResponseFields (cmd : Word) (q : Response) : Prop :=
  (opNumber cmd ≠ 3 → opNumber cmd ≠ 4 → q.outcome = .oNone ∧ q.code = none) ∧ (opNumber cmd ≠ 5 → q.data = 0)

/-- A response with neither outcome nor code nor data is right for every word. -/
theorem responseFields_of_bare (cmd : Word) {q : Response} (ho : q.outcome = .oNone) (hc : q.code = none) (hd : q.data = 0) :
    ResponseFields cmd q :=
  ⟨fun _ _ => ⟨ho, hc⟩, fun _ => hd⟩

/-- The response of a command that is performed. -/
theorem responseFields_effect {cmd : Word} {i : Instr} (h : decode cmd = .ok i) (r : Regs) :
    ResponseFields cmd (effect i r).2 := by
  have hop := opNumber_of_decode h
  cases i with
  | nop rsvd => exact responseFields_of_bare cmd rfl rfl rfl
  | start rsvd mode =>
    simp only [effect, startBody]
    split <;> exact responseFields_of_bare cmd rfl rfl rfl
  | account len =>
    simp only [effect, accountBody]
    split <;> exact responseFields_of_bare cmd rfl rfl rfl
  | extend rsvd => exact ⟨fun h3 => absurd hop h3, fun _ => rfl⟩
  | peek rsvd => exact ⟨fun _ h4 => absurd hop h4, fun _ => rfl⟩
  | read rsvd reg =>
    refine ⟨fun _ _ => ?_, fun h5 => absurd hop h5⟩
    simp only [effect, readBody]
    split <;> exact ⟨rfl, rfl⟩

/-- The response to every accepted word: a rejection and a fault report nothing but their status. -/
theorem responseFields_replyWord (cmd : Word) (r : Regs) : ResponseFields cmd (replyWord cmd r).2 := by
  unfold replyWord
  cases hd : decode cmd with
  | error e =>
    simp only
    split <;> exact responseFields_of_bare cmd rfl rfl rfl
  | ok i =>
    rcases reply_cases i r with ⟨-, -, hi⟩ | ⟨-, -, hi⟩ | ⟨-, -, hi⟩ <;> simp only [hi]
    · exact responseFields_of_bare cmd rfl rfl rfl
    · exact responseFields_of_bare cmd rfl rfl rfl
    · exact responseFields_effect hd r

/-- While a response is pending, an edge without `rst` takes it or keeps it, and does nothing else (30_encoding.md R54, log 3). -/
theorem step_of_pending {s : State} {q : Response} {inp : PortInput} {rest : List PortInput} (hq : s.resp = some q)
    (hi : s.inputs = inp :: rest) (hr : inp.rst = false) (hs : s.resetSeen = true) :
    step s = .next (if inp.respReady then takeResponse { s with inputs := rest } else { s with inputs := rest }) := by
  simp [step, nextEdge, hi, edge, hr, hs, hq]

end Sys2Proof.Machine

namespace Sys2Proof.Proofs

open Sys2Proof.Machine Sys2Proof.Safety

/-- Settles O16, by the ports of a pending response and the response to every accepted word. -/
theorem responseOnPorts : Obligations.ResponseOnPorts := by
  refine ⟨fun s q hq => ⟨by simp [outputs, respValid, hq], q.ports, by simp [outputs, respValid, hq], rfl, rfl, rfl, rfl,
    fun hc => by simp [Response.ports, hc], fun c hc => by simp [Response.ports, hc]⟩, fun cmd s t q hrun hq => ?_⟩
  rw [runWord_eq] at hrun
  cases hrun
  obtain rfl := Option.some.inj hq
  exact responseFields_replyWord cmd s.regs

/-- Settles O7, by what an accepting edge and an accepted word do. -/
theorem stepRunsDecoded : Obligations.StepRunsDecoded := by
  intro s cmd rest i hacc hd
  rw [step_of_accepts hacc, exec_eq, replyWord, hd]

/-- Settles O15, by what an edge does while a response is pending. -/
theorem oneCommandInFlight : Obligations.OneCommandInFlight := by
  intro s q inp rest hq hi hr hs
  have hstep := step_of_pending hq hi hr hs
  refine ⟨by simp [cmdReady, hq], by simp [respValid, hq], fun hready => ?_, fun hready => ?_, fun hready t ht => ?_⟩
  · rw [hstep, hready]
    rfl
  · rw [hstep, hready]
    rfl
  · rw [hstep, if_pos hready] at ht
    cases ht
    simp [cmdReady, hs]

end Sys2Proof.Proofs
end

section
/-! PROOFS. The control commands NOP, START and READ (40_control.md): performed in every state, what they write and answer, and MODE,
which START alone writes. -/
namespace Sys2Proof.Machine

open Sys2Proof.Safety

/-! ### Commands performed in every state -/

/-- A command performed in S_FAULTED needs no run and overflows no total, so Check passes it when it is legal
(60_exceptions.md R98, R102). -/
theorem check_of_control {i : Instr} (hp : performedWhenFaulted i.op = true) (hwf : i.WellFormed) (r : Regs) :
    check Config.hw i r = .fNone := by
  rw [check_eq_none_iff]
  cases i with
  | nop _ | start _ _ | read _ _ => exact ⟨hwf, nofun, rfl⟩
  | account _ | extend _ | peek _ => exact absurd hp nofun

/-- A legal NOP, START or READ is performed, whatever the registers hold. -/
theorem reply_of_control {i : Instr} (hp : performedWhenFaulted i.op = true) (hwf : i.WellFormed) (r : Regs) :
    reply i r = effect i r := by
  simp [reply, hp, check_of_control hp hwf]

/-- The same of `exec`. -/
theorem exec_of_control {i : Instr} (hp : performedWhenFaulted i.op = true) (hwf : i.WellFormed) (s : State) :
    exec i s = .next (s.answer (effect i s.regs)) :=
  exec_of_performed (fun _ => hp) (check_of_control hp hwf s.regs)

/-- NOP, START and READ with a reserved bit set fault in every state (30_encoding.md R53). -/
theorem exec_of_control_reserved {i : Instr} (hp : performedWhenFaulted i.op = true) (hr : i.reservedClear = false) (s : State) :
    exec i s = .next (faulted .fRsvdBits (encode i) s) :=
  exec_of_fault (fun _ => hp) (check_of_reserved hr) nofun

/-- The word of a command is answered as the command. -/
theorem replyWord_encode (i : Instr) (r : Regs) : replyWord (encode i) r = reply i r := by
  rw [replyWord, decode_encode]

/-! ### START -/

/-- The mode a legal operand names. -/
theorem modeOperand_of_lt_two :
    ∀ mode : BitVec 2, mode.toNat < 2 → modeOperand mode = some (if mode = 0 then .resetMode else .monitorMode) := by decide

/-- START without reserved bits is legal when its operand is below 2 (30_encoding.md R51). -/
theorem start_wellFormed {mode : BitVec 2} (h : mode.toNat < 2) : (Instr.start 0 mode).WellFormed :=
  (wellFormed_iff _).2 ⟨rfl, decide_eq_true h, rfl, rfl⟩

/-- A legal START, in every state (40_control.md R64). -/
theorem exec_start {mode : BitVec 2} (h : mode.toNat < 2) (s : State) :
    exec (.start 0 mode) s =
      .next (answered s (beginRun Config.hw (if mode = 0 then .resetMode else .monitorMode)) (okResponse 9 0)) := by
  rw [exec_of_control rfl (start_wellFormed h), effect, startBody_of_modeOperand (modeOperand_of_lt_two mode h)]
  rfl

/-! ### READ -/

/-- READ with a register number that names a register. -/
theorem readBody_of_regOperand {p : Config.Params} {reg : BitVec 4} {x : Reg} (h : regOperand reg = some x) (r : Regs) :
    readBody p reg r = (r, respondOk r (readReg p r x)) := by
  simp [readBody, h]

/-- A number below 0xB names a register (10_state.md R33). -/
theorem exists_regOperand {reg : BitVec 4} (h : reg.toNat < 0xB) : ∃ x, regOperand reg = some x :=
  Option.isSome_iff_exists.1 ((isSome_regOperand_iff reg).2 h)

/-- READ without reserved bits is legal when its number names a register. -/
theorem read_wellFormed {reg : BitVec 4} (h : reg.toNat < 0xB) : (Instr.read 0 reg).WellFormed :=
  (wellFormed_iff _).2 ⟨rfl, rfl, decide_eq_true h, rfl⟩

/-- A legal READ, whatever the registers hold: the value of the register named, and nothing written (40_control.md R66, R67). -/
theorem reply_read {reg : BitVec 4} {x : Reg} (h : reg.toNat < 0xB) (hx : regOperand reg = some x) (r : Regs) :
    reply (.read 0 reg) r = (r, okResponse r.w (readReg Config.hw r x)) := by
  rw [reply_of_control rfl (read_wellFormed h), effect, readBody_of_regOperand hx]
  rfl

/-- The word of a READ (30_encoding.md R52). -/
theorem encode_read : ∀ reg : BitVec 4, encode (.read 0 reg) = 0x50000000 ||| reg.setWidth 32 := by decide

/-! The values READ returns: a register narrower than 64 bits is zero-extended (40_control.md R66). -/

theorem readReg_status_toNat (p : Config.Params) (r : Regs) : (readReg p r .status).toNat = (statusWord r).toNat :=
  BitVec.toNat_setWidth_of_le (by decide)

theorem readReg_w_toNat (p : Config.Params) (r : Regs) : (readReg p r .w).toNat = r.w.toNat :=
  BitVec.toNat_setWidth_of_le (by decide)

/-- The capacity fits in 64 bits, W being below 32. -/
theorem readReg_l_toNat (p : Config.Params) (r : Regs) : (readReg p r .l).toNat = 2 ^ r.w.toNat := by
  have hw : r.w.toNat < 64 := r.w.isLt.trans (by decide)
  exact Nat.mod_eq_of_lt (Nat.pow_lt_pow_right (by decide) hw)

theorem readReg_next_toNat (p : Config.Params) (r : Regs) : (readReg p r .next).toNat = r.next.toNat :=
  BitVec.toNat_setWidth_of_le (by decide)

theorem readReg_fcmd_toNat (p : Config.Params) (r : Regs) : (readReg p r .fcmd).toNat = r.fcmd.toNat :=
  BitVec.toNat_setWidth_of_le (by decide)

/-- PARAM0 and PARAM1 of this hardware (10_state.md R35). -/
theorem readReg_params (r : Regs) :
    readReg Config.hw r .param0 = 256 ∧ readReg Config.hw r .param1 = 0x000A000B00081009 := by
  simp only [readReg]
  decide

/-! ### MODE -/

/-- ACCOUNT leaves MODE (10_state.md R14). -/
theorem accountBody_mode (p : Config.Params) (len : Len) (r : Regs) : (accountBody p len r).1.mode = r.mode := by
  unfold accountBody
  split <;> rfl

/-- A word that changes MODE is a legal START. -/
theorem WordEffect.isStartWord_of_mode_ne {cmd : Word} {r : Regs} {a : Regs × Response} (ha : WordEffect cmd r a)
    (h : a.1.mode ≠ r.mode) : IsStartWord cmd := by
  cases ha with
  | unchanged hu => exact absurd (by rw [hu]) h
  | fault _ hf => exact absurd (by rw [takeFault_regs_of_not_faulted hf]) h
  | start m hcmd => exact hcmd
  | account _ _ _ => exact absurd (accountBody_mode _ _ _) h
  | extend _ _ => exact absurd (extendRegs_keeps _ _).1 h

end Sys2Proof.Machine

namespace Sys2Proof.Proofs

open Sys2Proof.Machine Sys2Proof.Safety

/-- Settles O22, by the legality of the operand: a legal START is performed in every state, any other faults. -/
theorem startDoes : Obligations.StartDoes := by
  refine ⟨by decide, by decide, fun s rsvd mode => ⟨?_, fun hr => ?_, ?_⟩⟩
  · rintro rfl hmode
    exact exec_start hmode s
  · exact exec_of_control_reserved (i := .start rsvd mode) rfl (beq_false_of_ne hr) s
  · rintro rfl hmode
    exact exec_of_fault (fun _ => rfl) (check_of_mode rfl (decide_eq_false (Nat.not_lt.2 hmode))) nofun

/-- Settles O23, by the register that the number names, and the value of each of the eleven. -/
theorem readDoes : Obligations.ReadDoes := by
  refine fun s rsvd reg => ⟨encode_read reg, ?_, fun hr => ?_, ?_⟩
  · rintro rfl hreg
    obtain ⟨x, hx⟩ := exists_regOperand hreg
    refine ⟨readReg Config.hw s.regs x, by rw [exec_eq, reply_read hreg hx]; rfl, ?_⟩
    refine ⟨?status, ?w, ?l, ?next, ?emitBits, ?repBits, ?baseEmit, ?baseRep, ?fcmd, ?param0, ?param1⟩ <;>
      (rintro rfl; cases hx)
    case status => exact readReg_status_toNat _ _
    case w => exact readReg_w_toNat _ _
    case l => exact readReg_l_toNat _ _
    case next => exact readReg_next_toNat _ _
    case emitBits | repBits | baseEmit | baseRep => rfl
    case fcmd => exact readReg_fcmd_toNat _ _
    case param0 => exact (readReg_params _).1
    case param1 => exact (readReg_params _).2
  · exact exec_of_control_reserved (i := .read rsvd reg) rfl (beq_false_of_ne hr) s
  · rintro rfl hreg
    exact exec_of_fault (fun _ => rfl) (check_of_reg rfl rfl (decide_eq_false (Nat.not_lt.2 hreg))) nofun

/-- Settles O28: a legal READ leaves the registers it reads, so the second one finds what the first one found. -/
theorem readTwice : Obligations.ReadTwice := by
  intro s reg hreg
  obtain ⟨x, hx⟩ := exists_regOperand hreg
  have hread := (replyWord_encode (.read 0 reg) s.regs).trans (reply_read hreg hx s.regs)
  obtain ⟨t, ht, hregs⟩ := issueAll_eq [encode (.read 0 reg), encode (.read 0 reg)] s
  simp only [replies_cons, replies_nil, hread] at ht hregs
  exact ⟨_, t, ht, hregs, rfl⟩

/-- Settles O29, by what a step that changes the registers is. -/
theorem modeWrittenOnlyByStart : Obligations.ModeWrittenOnlyByStart := by
  intro s t hst hne
  obtain ⟨inp, rest, hi, hcase⟩ := step_cases_of_regs_ne hst fun h => hne (by rw [h])
  refine ⟨inp, rest, hi, ?_⟩
  rcases hcase with ⟨hr, -⟩ | ⟨-, hv, a, ha, ht, -⟩
  · exact .inl hr
  · rw [ht] at hne
    exact .inr ⟨hv, ha.isStartWord_of_mode_ne hne⟩

/-- Settles O21: a NOP without reserved bits is legal, hence performed in every state. -/
theorem nopDoes : Obligations.NopDoes := by
  refine ⟨by decide, fun s rsvd => ⟨?_, fun hr => ?_⟩⟩
  · rintro rfl
    exact exec_of_control rfl rfl s
  · exact exec_of_control_reserved (i := .nop rsvd) rfl (beq_false_of_ne hr) s

end Sys2Proof.Proofs
end

section
/-! PROOFS. The accounting command ACCOUNT and the totals (41_accounting.md): what each case of it does, and what an accepted word can do
to EMIT_BITS and REP_BITS. -/
namespace Sys2Proof.Machine

open Sys2Proof.Safety

/-! ### ACCOUNT, case by case (41_accounting.md R68) -/

/-- The word of an ACCOUNT (30_encoding.md R52). -/
theorem encode_account (len : Len) : encode (.account len) = 0x20000000 ||| len.setWidth 32 := by
  have hlen : (len.setWidth 32).toNat = len.toNat := BitVec.toNat_setWidth_of_le (by decide)
  apply BitVec.eq_of_toNat_eq
  rw [encode_toNat, BitVec.toNat_or, hlen]
  exact Nat.two_pow_add_eq_or_of_lt len.isLt 2

/-- ACCOUNT is legal when it names at least one symbol (30_encoding.md R51). -/
theorem account_wellFormed {len : Len} (h : len ≠ 0) : (Instr.account len).WellFormed :=
  (wellFormed_iff _).2 ⟨rfl, rfl, rfl, bne_iff_ne.2 h⟩

/-- ACCOUNT is rejected unchecked in S_FAULTED (60_exceptions.md R102). -/
theorem exec_account_of_faulted {s : State} (h : s.regs.fsm = .sFaulted) (len : Len) :
    exec (.account len) s = .next (rejected s) :=
  exec_of_rejected h rfl

/-- ACCOUNT of no symbols faults, in either mode. -/
theorem exec_account_zero {s : State} (h : s.regs.fsm ≠ .sFaulted) :
    exec (.account 0) s = .next (faulted .fZeroLen (encode (.account 0)) s) :=
  exec_of_fault (fun hf => absurd hf h) (check_of_len rfl rfl rfl rfl) nofun

/-- ACCOUNT with no run in progress faults, in either mode. -/
theorem exec_account_of_idle {s : State} {len : Len} (h : s.regs.fsm = .sIdle) (hlen : len ≠ 0) :
    exec (.account len) s = .next (faulted .fNotStarted (encode (.account len)) s) :=
  exec_of_fault (fun hf => absurd (h.symm.trans hf) nofun) (check_of_idle (account_wellFormed hlen) rfl h) nofun

/-- Check refuses exactly a Monitor-mode sum past 2^64 - 1 (60_exceptions.md R98). -/
theorem totalsOverflow_iff (r : Regs) (len : Len) :
    totalsOverflow Config.hw r len = true ↔
      r.mode = .monitorMode ∧ (r.emitBits.toNat + r.w.toNat > 2 ^ 64 - 1 ∨ r.repBits.toNat + 8 * len.toNat > 2 ^ 64 - 1) := by
  simp [totalsOverflow, totalMax, Config.totalBits]

/-- ACCOUNT in a run, with a sum past 2^64 - 1. -/
theorem exec_account_of_overflow {s : State} {len : Len} (hs : Started s.regs) (hlen : len ≠ 0)
    (ho : totalsOverflow Config.hw s.regs len = true) :
    exec (.account len) s = .next (faulted .fTotalOvf (encode (.account len)) s) :=
  exec_of_fault (fun hf => absurd hf hs.2) (check_of_overflow (account_wellFormed hlen) hs.1 ho) nofun

/-- ACCOUNT in a run, with totals that fit, is performed. -/
theorem exec_account_of_fits {s : State} {len : Len} (hs : Started s.regs) (hlen : len ≠ 0)
    (ho : totalsOverflow Config.hw s.regs len = false) :
    exec (.account len) s = .next (s.answer (accountBody Config.hw len s.regs)) :=
  exec_of_performed (fun hf => absurd hf hs.2) ((check_eq_none_iff _ _ _).2 ⟨account_wellFormed hlen, fun _ => hs.1, ho⟩)

/-- No Reset-mode ACCOUNT overflows. -/
theorem totalsOverflow_of_resetMode {r : Regs} (h : r.mode = .resetMode) (len : Len) :
    totalsOverflow Config.hw r len = false := by
  simp [totalsOverflow, h]

/-- ACCOUNT's effect in Reset mode: nothing (41_accounting.md R70). -/
theorem accountBody_of_resetMode {r : Regs} (h : r.mode = .resetMode) (p : Config.Params) (len : Len) :
    accountBody p len r = (r, okResponse r.w 0) := by
  simp only [accountBody, h]
  rfl

/-- ACCOUNT's effect in Monitor mode on this hardware. -/
theorem accountBody_of_monitorMode {r : Regs} (h : r.mode = .monitorMode) (len : Len) :
    accountBody Config.hw len r =
      ({ r with emitBits := r.emitBits + r.w.setWidth 64, repBits := r.repBits + BitVec.ofNat 64 (8 * len.toNat) },
        okResponse r.w 0) := by
  simp only [accountBody, h, hw_symbolBits, lenOperand_eq]
  rfl

/-- ACCOUNT in a Reset-mode run answers and writes no register (41_accounting.md R70). -/
theorem exec_account_of_resetMode {s : State} {len : Len} (hs : Started s.regs) (hlen : len ≠ 0)
    (hm : s.regs.mode = .resetMode) : exec (.account len) s = .next { s with resp := some (okResponse s.regs.w 0) } := by
  rw [exec_account_of_fits hs hlen (totalsOverflow_of_resetMode hm len), accountBody_of_resetMode hm]
  rfl

/-! ### What an accepted word does to the totals (41_accounting.md R69) -/

/-- The answer `a` to `cmd` leaves both totals of `r`, adds one codeword to them (ACCOUNT), or clears them (START, O_RESET). -/
def TotalsChange (cmd : Word) (r : Regs) (a : Regs × Response) : Prop :=
  (a.1.emitBits = r.emitBits ∧ a.1.repBits = r.repBits) ∨
  (opNumber cmd = 2 ∧ a.2.status = .rsOk ∧ a.1.emitBits.toNat = r.emitBits.toNat + r.w.toNat ∧
    a.1.repBits.toNat = r.repBits.toNat + 8 * (cmd.toNat % 2 ^ 28)) ∨
  ((IsStartWord cmd ∨ (cmd = 0x30000000 ∧ a.2.outcome = .oReset)) ∧ a.1.emitBits = 0 ∧ a.1.repBits = 0)

/-- An answer that writes no register leaves the totals. -/
theorem totalsChange_of_regs_eq (cmd : Word) {r : Regs} {a : Regs × Response} (h : a.1 = r) : TotalsChange cmd r a :=
  .inl ⟨by rw [h], by rw [h]⟩

/-- Fault entry leaves the totals (60_exceptions.md R101). -/
theorem totalsChange_takeFault (c : Cause) (cmd : Word) (r : Regs) : TotalsChange cmd r (takeFault c cmd r) := by
  by_cases hf : r.fsm = .sFaulted
  · exact totalsChange_of_regs_eq cmd (takeFault_regs_of_faulted hf)
  · rw [TotalsChange, takeFault_regs_of_not_faulted hf]
    exact .inl ⟨rfl, rfl⟩

/-- An ACCOUNT whose totals fit adds to both in Monitor mode and leaves both in Reset mode. -/
theorem totalsChange_accountBody {cmd : Word} {len : Len} {r : Regs} (hd : decode cmd = .ok (.account len))
    (ho : totalsOverflow Config.hw r len = false) : TotalsChange cmd r (accountBody Config.hw len r) := by
  cases hm : r.mode with
  | resetMode => exact totalsChange_of_regs_eq cmd (by rw [accountBody_of_resetMode hm])
  | monitorMode =>
    obtain ⟨hemit, hrep⟩ := totals_fit hm ho
    rw [accountBody_of_monitorMode hm]
    refine .inr (.inl ⟨opNumber_of_decode hd, rfl, emitBits_add_toNat hemit, ?_⟩)
    rw [← len_toNat_of_decode hd]
    exact repBits_add_toNat hrep

/-- Only O_RESET writes the totals (42_policy.md R74). -/
theorem extendRegs_totals (r : Regs) :
    ((extendRegs Config.hw r).emitBits = r.emitBits ∧ (extendRegs Config.hw r).repBits = r.repBits) ∨
    ((decision Config.hw r).outcome = .oReset ∧ (extendRegs Config.hw r).emitBits = 0 ∧ (extendRegs Config.hw r).repBits = 0) := by
  simp only [extendRegs]
  cases (decision Config.hw r).outcome with
  | oReset => exact .inr ⟨rfl, rfl, rfl⟩
  | oNone | oAssigned | oGrew | oNoopBaseline | oNoopKeep => exact .inl ⟨rfl, rfl⟩

/-- A command performed, by its instruction. -/
theorem totalsChange_effect {cmd : Word} {i : Instr} {r : Regs} (hd : decode cmd = .ok i)
    (hc : check Config.hw i r = .fNone) : TotalsChange cmd r (effect i r) := by
  obtain ⟨hwf, -, ho⟩ := (check_eq_none_iff _ _ _).1 hc
  cases i with
  | nop _ | peek _ => exact totalsChange_of_regs_eq cmd rfl
  | read _ reg => exact totalsChange_of_regs_eq cmd (readBody_regs _ reg r)
  | start rsvd mode =>
    obtain ⟨m, hm⟩ := modeOperand_of_wellFormed hwf
    rw [effect, startBody_of_modeOperand hm]
    exact .inr (.inr ⟨.inl (isStartWord_of_decode hd hwf), rfl, rfl⟩)
  | account len => exact totalsChange_accountBody hd ho
  | extend rsvd =>
    rcases extendRegs_totals r with hkeep | ⟨hreset, hzero⟩
    · exact .inl hkeep
    · exact .inr (.inr ⟨.inr ⟨eq_extendWord_of_decode hd hwf, hreset⟩, hzero⟩)

/-- Every accepted word. -/
theorem totalsChange_replyWord (cmd : Word) (r : Regs) : TotalsChange cmd r (replyWord cmd r) := by
  unfold replyWord
  cases hd : decode cmd with
  | error e =>
    simp only
    split
    · exact totalsChange_of_regs_eq cmd rfl
    · exact totalsChange_takeFault _ cmd r
  | ok i =>
    rcases reply_cases i r with ⟨-, -, h⟩ | ⟨-, -, h⟩ | ⟨-, hc, h⟩ <;> simp only [h]
    · exact totalsChange_of_regs_eq cmd rfl
    · rw [encode_of_decode hd]
      exact totalsChange_takeFault _ cmd r
    · exact totalsChange_effect hd hc

end Sys2Proof.Machine

namespace Sys2Proof.Proofs

open Sys2Proof.Machine Sys2Proof.Safety

/-- Settles O24, by STATE, the operand, MODE and whether the totals fit. -/
theorem accountDoes : Obligations.AccountDoes := by
  refine fun s len => ⟨encode_account len, fun hf => exec_account_of_faulted hf len, ?_, exec_account_of_idle,
    exec_account_of_resetMode, fun hs hlen hm ho => ?_, fun hs hlen hm hemit hrep => ?_⟩
  · rintro hf rfl
    exact exec_account_zero hf
  · exact exec_account_of_overflow hs hlen ((totalsOverflow_iff _ _).2 ⟨hm, ho⟩)
  · have ho : totalsOverflow Config.hw s.regs len = false := by
      rw [← Bool.not_eq_true, totalsOverflow_iff]
      rintro ⟨-, h | h⟩ <;> omega
    refine ⟨_, _, emitBits_add_toNat (w := s.regs.w) (by omega), repBits_add_toNat (n := 8 * len.toNat) (by omega), ?_⟩
    rw [exec_account_of_fits hs hlen ho, accountBody_of_monitorMode hm]
    rfl

/-- Settles O32, by what an accepted word does to the totals. -/
theorem totalsCumulative : Obligations.TotalsCumulative := by
  intro cmd s t q hrun hq
  rw [runWord_eq] at hrun
  cases hrun
  obtain rfl := Option.some.inj hq
  exact totalsChange_replyWord cmd s.regs

/-- Settles O33, by the cases of ACCOUNT, whose operand and STATE are checked in either mode, and the invariant's Reset-mode clause. -/
theorem accountInResetMode : Obligations.AccountInResetMode := by
  refine fun s hm => ⟨fun len hs hlen => ⟨_, exec_account_of_resetMode hs hlen hm, rfl⟩, exec_account_zero,
    fun len m hf hlen => exec_account_of_idle hf hlen, fun hinv => ?_⟩
  obtain ⟨hemit, hrep, hvalid, hbaseEmit, hbaseRep⟩ := hinv.regs.resetMode hm
  exact ⟨hemit, hrep, hbaseEmit, hbaseRep, hvalid⟩

end Sys2Proof.Proofs
end

section
/-! PROOFS. The Monitor-mode threshold (42_policy.md R72, R73). -/
namespace Sys2Proof.Machine

open Sys2Proof.Safety

/-- The threshold of this hardware, on naturals. -/
theorem exceeds_iff (r : Regs) :
    exceeds Config.hw r = true ↔ 10 * r.baseRep.toNat * r.emitBits.toNat > 11 * r.baseEmit.toNat * r.repBits.toNat :=
  decide_eq_true_iff

/-- A ratio of ratios is above 11/10 exactly when the cross products say so; `e` may be 0, and then both sides are false. -/
theorem ratio_of_ratios_gt_iff (a e : Nat) {b c : Nat} (hb : 0 < b) (hc : 0 < c) :
    ((a : ℚ) / b) / ((c : ℚ) / e) > 11 / 10 ↔ 10 * a * e > 11 * b * c := by
  have hpos : (0 : ℚ) < b * c := by positivity
  rw [gt_iff_lt, div_div_div_eq, div_lt_div_iff₀ (by norm_num) hpos, gt_iff_lt, ← Nat.cast_lt (α := ℚ)]
  push_cast
  constructor <;> intro h <;> linarith

/-- A product of the threshold test, two totals times a constant of at most 11, is far below 2^136. -/
theorem threshold_product_lt {k : Nat} (hk : k ≤ 11) (a b : Total) : k * a.toNat * b.toNat < 2 ^ 136 :=
  calc k * a.toNat * b.toNat = k * (a.toNat * b.toNat) := mul_assoc _ _ _
    _ ≤ 11 * (2 ^ 64 * 2 ^ 64) := Nat.mul_le_mul hk (Nat.mul_le_mul a.isLt.le b.isLt.le)
    _ < 2 ^ 136 := by norm_num

/-- An empty baseline exceeds nothing: both products are 0 and the test is strict. -/
theorem exceeds_of_empty_baseline {p : Config.Params} {r : Regs} (he : r.baseEmit = 0) (hr : r.baseRep = 0) :
    exceeds p r = false := by
  simp [exceeds, he, hr]

end Sys2Proof.Machine

namespace Sys2Proof.Safety

open Sys2Proof.Machine

/-- With emitted bits in the baseline no other operand of the test is 0: the baseline's totals are zero together, and the totals of
the epoch are at least the baseline's. -/
theorem RegsInv.operands_ne_zero {r : Regs} (h : RegsInv r) (he : r.baseEmit ≠ 0) :
    r.baseRep ≠ 0 ∧ r.emitBits ≠ 0 ∧ r.repBits ≠ 0 := by
  obtain ⟨-, -, hzero, -⟩ := h.totals
  have hr : r.baseRep ≠ 0 := mt hzero.2 he
  have hv : r.baseValid = true := by
    by_contra hv
    exact he (h.baseline.2 (by simpa using hv)).1
  obtain ⟨-, -, -, hle, hlr⟩ := h.baseline.1 hv
  exact ⟨hr, by bv_omega, by bv_omega⟩

end Sys2Proof.Safety

namespace Sys2Proof.Proofs

open Sys2Proof.Machine Sys2Proof.Safety

/-- Settles O34, by cross multiplication and the 64 bits of a total. -/
theorem thresholdIsRatio : Obligations.ThresholdIsRatio := by
  refine fun r => ⟨exceeds_iff r, fun he hr => ?_, threshold_product_lt (by decide) _ _, threshold_product_lt le_rfl _ _⟩
  rw [exceeds_iff, ratio_of_ratios_gt_iff _ _ he hr]

/-- Settles O35, by the two products and the invariant's clauses on the baseline. -/
theorem emptyBaseline : Obligations.EmptyBaseline :=
  fun _ => ⟨exceeds_of_empty_baseline, RegsInv.operands_ne_zero⟩

end Sys2Proof.Proofs
end

section
/-! PROOFS. EXTEND and PEEK (42_policy.md R71, R74 to R77): when they are performed, what each outcome writes and answers, and that
PEEK answers what EXTEND would. -/
namespace Sys2Proof.Machine

open Sys2Proof.Safety

/-! ### When a command of a run is performed -/

/-- In a run a legal command whose totals fit is performed. -/
theorem reply_of_started {i : Instr} {r : Regs} (hs : Started r) (hwf : i.WellFormed) (ho : overflows Config.hw i r = false) :
    reply i r = effect i r := by
  simp [reply, hs.2, (check_eq_none_iff _ _ _).2 ⟨hwf, fun _ => hs.1, ho⟩]

/-- The same of `exec`. -/
theorem exec_of_started {i : Instr} {s : State} (hs : Started s.regs) (hwf : i.WellFormed)
    (ho : overflows Config.hw i s.regs = false) : exec i s = .next (s.answer (effect i s.regs)) := by
  rw [exec_eq, reply_of_started hs hwf ho]

/-- Outside S_FAULTED a command with a reserved bit set faults (30_encoding.md R53). -/
theorem exec_of_reserved {i : Instr} {s : State} (hf : s.regs.fsm ≠ .sFaulted) (hr : i.reservedClear = false) :
    exec i s = .next (faulted .fRsvdBits (encode i) s) :=
  exec_of_fault (fun h => absurd h hf) (check_of_reserved hr) nofun

/-- A legal command that needs a run faults in S_IDLE (60_exceptions.md R98). -/
theorem exec_of_idle {i : Instr} {s : State} (hf : s.regs.fsm = .sIdle) (hwf : i.WellFormed) (hn : needsRun i.op = true) :
    exec i s = .next (faulted .fNotStarted (encode i) s) :=
  exec_of_fault (fun h => absurd (hf.symm.trans h) nofun) (check_of_idle hwf hn hf) nofun

/-- EXTEND in a run. -/
theorem reply_extend {r : Regs} (hs : Started r) : reply (.extend 0) r = extendBody Config.hw r := reply_of_started hs rfl rfl

/-- PEEK in a run. -/
theorem reply_peek {r : Regs} (hs : Started r) : reply (.peek 0) r = peekBody Config.hw r := reply_of_started hs rfl rfl

/-! ### The answer of EXTEND, by its outcome -/

/-- EXTEND's response reports the decision and the width it leaves. -/
theorem extendBody_eq {r r' : Regs} {d : Decision} (hr : extendRegs Config.hw r = r') (hd : decision Config.hw r = d) :
    extendBody Config.hw r = (r', respond .rsOk d.outcome d.code r'.w 0) := by
  rw [extendBody, hr, hd]

/-- O_ASSIGNED. -/
theorem extendBody_assigned {r : Regs} (h : r.next.toNat < 2 ^ r.w.toNat) :
    extendBody Config.hw r =
      ({ r with
          next := r.next + 1
          fsm := if r.w.toNat = 16 ∧ (r.next + 1).toNat = 65536 then .sAtcap else .sGrowing },
        { status := .rsOk, outcome := .oAssigned, code := some (r.next.setWidth 16), w := r.w, data := 0 }) :=
  extendBody_eq (extendRegs_assigned h) (decision_assigned h)

/-- O_GREW. -/
theorem extendBody_grew {r : Regs} (h : 2 ^ r.w.toNat ≤ r.next.toNat) (hw : r.w.toNat < 16) :
    extendBody Config.hw r =
      ({ r with
          w := r.w + 1
          next := r.next + 1
          fsm := if (r.w + 1).toNat = 16 ∧ (r.next + 1).toNat = 65536 then .sAtcap else .sGrowing },
        { status := .rsOk, outcome := .oGrew, code := some (r.next.setWidth 16), w := r.w + 1, data := 0 }) :=
  extendBody_eq (extendRegs_grew h hw) (decision_grew h hw)

/-- O_RESET. -/
theorem extendBody_reset {r : Regs} (h : 2 ^ r.w.toNat ≤ r.next.toNat) (hw : 16 ≤ r.w.toNat)
    (hr : r.mode = .resetMode ∨ (r.baseValid = true ∧ exceeds Config.hw r = true)) :
    extendBody Config.hw r =
      ({ r with
          w := 9, next := 258, emitBits := 0, repBits := 0, baseValid := false, baseEmit := 0, baseRep := 0, fsm := .sReset },
        { status := .rsOk, outcome := .oReset, code := some 257, w := 9, data := 0 }) :=
  extendBody_eq (extendRegs_reset h hw hr) (decision_reset h hw hr)

/-- O_NOOP_BASELINE. -/
theorem extendBody_baseline {r : Regs} (h : 2 ^ r.w.toNat ≤ r.next.toNat) (hw : 16 ≤ r.w.toNat) (hm : r.mode = .monitorMode)
    (hb : r.baseValid = false) :
    extendBody Config.hw r =
      ({ r with
          baseEmit := r.emitBits
          baseRep := r.repBits
          baseValid := true
          fsm := if r.w.toNat = 16 ∧ r.next.toNat = 65536 then .sAtcap else .sGrowing },
        { status := .rsOk, outcome := .oNoopBaseline, code := none, w := r.w, data := 0 }) :=
  extendBody_eq (extendRegs_baseline h hw hm hb) (decision_baseline h hw hm hb)

/-- O_NOOP_KEEP. -/
theorem extendBody_keep {r : Regs} (h : 2 ^ r.w.toNat ≤ r.next.toNat) (hw : 16 ≤ r.w.toNat) (hm : r.mode = .monitorMode)
    (hb : r.baseValid = true) (he : exceeds Config.hw r = false) :
    extendBody Config.hw r =
      ({ r with fsm := if r.w.toNat = 16 ∧ r.next.toNat = 65536 then .sAtcap else .sGrowing },
        { status := .rsOk, outcome := .oNoopKeep, code := none, w := r.w, data := 0 }) :=
  extendBody_eq (extendRegs_keep h hw hm hb he) (decision_keep h hw hm hb he)

/-- EXTEND in a run, with its answer known. -/
theorem exec_extend {s : State} {r : Regs} {q : Response} (hs : Started s.regs) (h : extendBody Config.hw s.regs = (r, q)) :
    exec (.extend 0) s = .next (answered s r q) := by
  rw [exec_eq, reply_extend hs, h, answer_eq_answered]

/-! ### The width -/

/-- A decision names a width other than W exactly when it grows, or resets a W that is not W0. -/
theorem decision_w_ne_iff (r : Regs) :
    (decision Config.hw r).w ≠ r.w ↔
      (decision Config.hw r).outcome = .oGrew ∨ ((decision Config.hw r).outcome = .oReset ∧ r.w ≠ 9) := by
  rw [← extendRegs_w, extendRegs]
  cases (decision Config.hw r).outcome with
  | oNone | oAssigned | oNoopBaseline | oNoopKeep => simp [applyDecision]
  | oGrew => simp [applyDecision]
  | oReset => simp [applyDecision, eq_comm]

end Sys2Proof.Machine

namespace Sys2Proof.Proofs

open Sys2Proof.Machine Sys2Proof.Safety

/-- Settles O25, by Check and the five outcomes of the decision. -/
theorem extendDoes : Obligations.ExtendDoes := by
  refine ⟨by decide, fun s rsvd => ⟨fun hf => exec_of_rejected hf rfl,
    fun hf hr => exec_of_reserved hf (beq_false_of_ne hr), ?_, ?_⟩⟩
  · rintro hf rfl
    exact exec_of_idle hf rfl rfl
  · rintro hs rfl
    refine ⟨fun h => exec_extend hs (extendBody_assigned h), fun h hw => exec_extend hs (extendBody_grew h hw),
      fun h hw hr => exec_extend hs (extendBody_reset h hw ?_),
      fun h hw hm hb => exec_extend hs (extendBody_baseline h hw hm hb),
      fun h hw hm hb hle => exec_extend hs (extendBody_keep h hw hm hb ?_)⟩
    · rwa [exceeds_iff]
    · rwa [← Bool.not_eq_true, exceeds_iff, gt_iff_lt, not_lt]

/-- Settles O26: PEEK's body reports the decision that EXTEND performs. -/
theorem peekDoes : Obligations.PeekDoes := by
  refine ⟨by decide, fun s rsvd => ⟨fun hf => exec_of_rejected hf rfl,
    fun hf hr => exec_of_reserved hf (beq_false_of_ne hr), ?_, ?_⟩⟩
  · rintro hf rfl
    exact exec_of_idle hf rfl rfl
  · rintro hs rfl
    refine ⟨_, _, exec_of_started hs rfl rfl, rfl, rfl, rfl, ?_, ?_⟩
    · rw [exec_of_started hs rfl rfl, effect, effect, extendBody_resp]
      rfl
    · rw [effect, extendBody_resp]
      exact decision_w_ne_iff s.regs

end Sys2Proof.Proofs
end

section
/-! PROOFS. The width state machine (42_policy.md R79 to R83): the transition table, the width, and the codes assigned. -/
namespace Sys2Proof.Machine

open Sys2Proof.Safety

/-! ### Every way an accepted word ends -/

/-- An accepted word is rejected in S_FAULTED, takes a fault, or is a command that Check passes and that is performed. -/
theorem replyWord_cases (cmd : Word) (r : Regs) :
    (r.fsm = .sFaulted ∧ replyWord cmd r = reject r) ∨
    (∃ c, c ≠ .fNone ∧ replyWord cmd r = takeFault c cmd r) ∨
    (∃ i, decode cmd = .ok i ∧ check Config.hw i r = .fNone ∧ replyWord cmd r = effect i r) := by
  unfold replyWord
  cases hd : decode cmd with
  | error e =>
    by_cases hf : r.fsm = .sFaulted
    · exact .inl ⟨hf, if_pos hf⟩
    · exact .inr (.inl ⟨.fIllegalOp, nofun, if_neg hf⟩)
  | ok i =>
    rcases reply_cases i r with ⟨hf, -, h⟩ | ⟨-, hc, h⟩ | ⟨-, hc, h⟩
    · exact .inl ⟨hf, h⟩
    · exact .inr (.inl ⟨_, hc, by rw [← encode_of_decode hd]; exact h⟩)
    · exact .inr (.inr ⟨i, rfl, hc, h⟩)

/-- The state and the response after an accepted word. -/
theorem eq_answer_of_runWord {cmd : Word} {s t : State} {q : Response} (h : runWord cmd s = .next t) (hq : t.resp = some q) :
    t = s.answer (replyWord cmd s.regs) ∧ q = (replyWord cmd s.regs).2 := by
  rw [runWord_eq] at h
  cases h
  exact ⟨rfl, (Option.some.inj hq).symm⟩

/-- Fault entry ends in S_FAULTED, the first fault and a later one. -/
theorem takeFault_fsm (c : Cause) (cmd : Word) (r : Regs) : (takeFault c cmd r).1.fsm = .sFaulted := by
  by_cases hf : r.fsm = .sFaulted
  · rwa [takeFault_regs_of_faulted hf]
  · rw [takeFault_regs_of_not_faulted hf]

/-- Fault entry leaves W (60_exceptions.md R101). -/
theorem takeFault_w (c : Cause) (cmd : Word) (r : Regs) : (takeFault c cmd r).1.w = r.w := by
  by_cases hf : r.fsm = .sFaulted
  · rw [takeFault_regs_of_faulted hf]
  · rw [takeFault_regs_of_not_faulted hf]

/-- A command performed answers RS_OK (30_encoding.md R55). -/
theorem effect_status (i : Instr) (r : Regs) : (effect i r).2.status = .rsOk := by
  cases i with
  | nop _ | extend _ | peek _ => rfl
  | start _ _ =>
    simp only [effect, startBody]
    split <;> rfl
  | account _ =>
    simp only [effect, accountBody]
    split <;> rfl
  | read _ _ =>
    simp only [effect, readBody]
    split <;> rfl

/-- ACCOUNT leaves STATE and W (41_accounting.md R68). -/
theorem accountBody_fsm_w (p : Config.Params) (len : Len) (r : Regs) :
    (accountBody p len r).1.fsm = r.fsm ∧ (accountBody p len r).1.w = r.w := by
  unfold accountBody
  split <;> exact ⟨rfl, rfl⟩

/-! ### The transitions of STATE (42_policy.md R80) -/

/-- A START word begins the run of its mode, in every state. -/
theorem replyWord_start {cmd : Word} (h : IsStartWord cmd) (r : Regs) :
    ∃ m, replyWord cmd r = (beginRun Config.hw m, okResponse 9 0) := by
  rcases h with rfl | rfl
  · exact ⟨.resetMode, (replyWord_encode (.start 0 0) r).trans (reply_of_control rfl rfl r)⟩
  · exact ⟨.monitorMode, (replyWord_encode (.start 0 1) r).trans (reply_of_control rfl rfl r)⟩

/-- In S_IDLE a command that needs a run takes a fault. -/
theorem reply_of_idle {i : Instr} {r : Regs} (hf : r.fsm = .sIdle) (hn : needsRun i.op = true) :
    reply i r = takeFault (check Config.hw i r) (encode i) r := by
  rcases reply_cases i r with ⟨hf', -, -⟩ | ⟨-, -, h⟩ | ⟨-, hc, -⟩
  · exact absurd (hf.symm.trans hf') nofun
  · exact h
  · obtain ⟨-, hrun, -⟩ := (check_eq_none_iff _ _ _).1 hc
    exact absurd hf (hrun hn)

/-- The cause of that fault is F_NOT_STARTED when the command is legal. -/
theorem reply_fcause_of_idle {i : Instr} {r : Regs} (hf : r.fsm = .sIdle) (hn : needsRun i.op = true) (hwf : i.WellFormed) :
    (reply i r).1.fcause = .fNotStarted := by
  rw [reply_of_idle hf hn, takeFault_regs_of_not_faulted (by simp [hf])]
  exact check_of_idle hwf hn hf

/-- The opcodes of ACCOUNT, EXTEND and PEEK select commands that need a run. -/
theorem exists_decode_of_needsRun {cmd : Word} (h : opNumber cmd = 2 ∨ opNumber cmd = 3 ∨ opNumber cmd = 4) :
    ∃ i, decode cmd = .ok i ∧ needsRun i.op = true := by
  rcases h with h | h | h
  · exact ⟨_, decode_of_opField (op := .account) ((opField_eq_iff _ _).2 h), rfl⟩
  · exact ⟨_, decode_of_opField (op := .extend) ((opField_eq_iff _ _).2 h), rfl⟩
  · exact ⟨_, decode_of_opField (op := .peek) ((opField_eq_iff _ _).2 h), rfl⟩

/-- A word answered RS_FAULT ends in S_FAULTED. -/
theorem replyWord_fsm_of_rsFault {cmd : Word} {r : Regs} (h : (replyWord cmd r).2.status = .rsFault) :
    (replyWord cmd r).1.fsm = .sFaulted := by
  rcases replyWord_cases cmd r with ⟨-, ha⟩ | ⟨c, -, ha⟩ | ⟨i, -, -, ha⟩ <;> rw [ha] at h ⊢
  · exact absurd h nofun
  · exact takeFault_fsm c cmd r
  · rw [effect_status] at h
    exact absurd h nofun

/-- Nothing but START leaves S_FAULTED (60_exceptions.md R103). -/
theorem WordEffect.fsm_of_faulted {cmd : Word} {r : Regs} {a : Regs × Response} (ha : WordEffect cmd r a)
    (hf : r.fsm = .sFaulted) (hcmd : ¬ IsStartWord cmd) : a.1.fsm = .sFaulted := by
  cases ha with
  | unchanged hu => rwa [hu]
  | fault _ hn => exact absurd hf hn
  | start _ hs => exact absurd hs hcmd
  | account hs _ _ => exact absurd hf hs.2
  | extend hs _ => exact absurd hf hs.2

/-- A word answered RS_OK that is no START and no EXTEND keeps STATE. -/
theorem replyWord_fsm_of_rsOk {cmd : Word} {r : Regs} (h : (replyWord cmd r).2.status = .rsOk) (h1 : opNumber cmd ≠ 1)
    (h3 : opNumber cmd ≠ 3) : (replyWord cmd r).1.fsm = r.fsm := by
  have ha := replyWord_wordEffect cmd r
  generalize replyWord cmd r = a at h ha
  cases ha with
  | unchanged hu => rw [hu]
  | fault _ _ => exact absurd h nofun
  | start _ hs => rcases hs with rfl | rfl <;> exact absurd rfl h1
  | account _ _ _ => exact (accountBody_fsm_w _ _ _).1
  | extend _ hcmd =>
    subst hcmd
    exact absurd rfl h3

/-- The word of EXTEND (30_encoding.md R52). -/
theorem extendWord_eq : extendWord = 0x30000000 := by decide

/-- The word of EXTEND is answered as EXTEND. -/
theorem replyWord_extendWord (r : Regs) : replyWord extendWord r = reply (.extend 0) r := replyWord_encode _ r

/-- The word of EXTEND in a run. -/
theorem replyWord_extend {r : Regs} (hs : Started r) : replyWord extendWord r = extendBody Config.hw r :=
  (replyWord_extendWord r).trans (reply_extend hs)

/-- Below capacity EXTEND assigns a code, and STATE says whether it was the last one. -/
theorem extendBody_below_capacity {r : Regs} (h : RegsInv r) (hs : Started r) (hf : r.fsm ≠ .sAtcap) :
    ((extendBody Config.hw r).2.outcome = .oAssigned ∨ (extendBody Config.hw r).2.outcome = .oGrew) ∧
    (extendBody Config.hw r).1.fsm =
      if (extendBody Config.hw r).1.w.toNat = 16 ∧ (extendBody Config.hw r).1.next.toNat = 65536 then .sAtcap else .sGrowing := by
  rcases Nat.lt_or_ge r.next.toNat (2 ^ r.w.toNat) with hlt | hfull
  · rw [extendBody_assigned hlt]
    exact ⟨.inl rfl, rfl⟩
  · rcases Nat.lt_or_ge r.w.toNat 16 with hw | hw
    · rw [extendBody_grew hfull hw]
      exact ⟨.inr rfl, rfl⟩
    · exact absurd ((h.atcap hs).2 (h.next_eq_of_full hfull hw)) hf

/-- At capacity EXTEND resets, or keeps the table and stays. -/
theorem extendBody_at_capacity {r : Regs} (hw : r.w.toNat = 16) (hn : r.next.toNat = 65536) :
    ((extendBody Config.hw r).2.outcome = .oReset ∧ (extendBody Config.hw r).1.fsm = .sReset) ∨
    (((extendBody Config.hw r).2.outcome = .oNoopBaseline ∨ (extendBody Config.hw r).2.outcome = .oNoopKeep) ∧
      (extendBody Config.hw r).1.fsm = .sAtcap) := by
  rcases decision_conditions Config.hw r with h | ⟨-, h⟩ | ⟨hf, hw', hr⟩ | ⟨hf, hw', hm, hb⟩ | ⟨hf, hw', hm, hb, he⟩
  · rw [hw, hn] at h
    exact absurd h (by decide)
  · rw [hw] at h
    exact absurd h (by decide)
  · rw [extendBody_reset hf hw' hr]
    exact .inl ⟨rfl, rfl⟩
  · rw [extendBody_baseline hf hw' hm hb]
    exact .inr ⟨.inl rfl, if_pos ⟨hw, hn⟩⟩
  · rw [extendBody_keep hf hw' hm hb he]
    exact .inr ⟨.inr rfl, if_pos ⟨hw, hn⟩⟩

/-! ### The width (42_policy.md R79) -/

/-- EXTEND keeps W, adds one to it, or restores W0. -/
theorem extendBody_w (r : Regs) :
    (extendBody Config.hw r).1.w = r.w ∨
    ((extendBody Config.hw r).2.outcome = .oGrew ∧ (extendBody Config.hw r).1.w = r.w + 1) ∨
    ((extendBody Config.hw r).2.outcome = .oReset ∧ (extendBody Config.hw r).1.w = 9) := by
  simp only [extendBody, extendRegs, respond]
  cases (decision Config.hw r).outcome with
  | oNone | oAssigned | oNoopBaseline | oNoopKeep => exact .inl rfl
  | oGrew => exact .inr (.inl ⟨rfl, rfl⟩)
  | oReset => exact .inr (.inr ⟨rfl, rfl⟩)

/-- What an accepted word does to W. -/
theorem WordEffect.w_cases {cmd : Word} {r : Regs} {a : Regs × Response} (ha : WordEffect cmd r a) :
    a.1.w = r.w ∨ (a.2.outcome = .oGrew ∧ cmd = 0x30000000 ∧ a.1.w = r.w + 1) ∨
    ((IsStartWord cmd ∨ (cmd = 0x30000000 ∧ a.2.outcome = .oReset)) ∧ a.1.w = 9) := by
  cases ha with
  | unchanged hu => exact .inl (by rw [hu])
  | fault _ _ => exact .inl (takeFault_w _ _ _)
  | start m hcmd => exact .inr (.inr ⟨.inl hcmd, rfl⟩)
  | account _ _ _ => exact .inl (accountBody_fsm_w _ _ _).2
  | extend _ hcmd =>
    rcases extendBody_w r with h | ⟨ho, h⟩ | ⟨ho, h⟩
    · exact .inl h
    · exact .inr (.inl ⟨ho, hcmd, h⟩)
    · exact .inr (.inr ⟨.inr ⟨hcmd, ho⟩, h⟩)

/-! ### The codes assigned (42_policy.md R81, R83) -/

/-- A run with W at most WMAX and NEXT within the capacity: the part of the invariant that assigning codes rests on. -/
structure TableInRange (r : Regs) : Prop where
  started : Started r
  width : r.w.toNat ≤ 16
  next : r.next.toNat ≤ 2 ^ r.w.toNat

/-- The STATE of an EXTEND that assigns a code is one of a run. -/
theorem started_of_fsm_eq_ite {r : Regs} {c : Prop} [Decidable c] (h : r.fsm = if c then .sAtcap else .sGrowing) : Started r := by
  rw [Started, h]
  split <;> simp

/-- While a code is left EXTEND assigns NEXT and advances it, growing W when the capacity is reached. -/
theorem TableInRange.extendBody {r : Regs} (h : TableInRange r) (hlt : r.next.toNat < 65536) :
    TableInRange (extendBody Config.hw r).1 ∧ (extendBody Config.hw r).1.next.toNat = r.next.toNat + 1 ∧
    (extendBody Config.hw r).2.code.map BitVec.toNat = some r.next.toNat := by
  obtain ⟨-, hw16, hle⟩ := h
  have hnext : (r.next + 1).toNat = r.next.toNat + 1 := by bv_omega
  have hcode : (r.next.setWidth 16).toNat = r.next.toNat := by
    rw [BitVec.toNat_setWidth]
    exact Nat.mod_eq_of_lt hlt
  rcases Nat.lt_or_ge r.next.toNat (2 ^ r.w.toNat) with hroom | hfull
  · rw [extendBody_assigned hroom]
    exact ⟨⟨started_of_fsm_eq_ite rfl, hw16, hnext.trans_le hroom⟩, hnext, congrArg some hcode⟩
  · have hw : r.w.toNat < 16 := (Nat.pow_lt_pow_iff_right (by decide)).1 (hfull.trans_lt hlt)
    have hwidth : (r.w + 1).toNat = r.w.toNat + 1 := width_succ_toNat (p := Config.hw) le_rfl hw
    rw [extendBody_grew hfull hw]
    refine ⟨⟨started_of_fsm_eq_ite rfl, hwidth.trans_le hw, ?_⟩, hnext, congrArg some hcode⟩
    have hpos : 0 < 2 ^ r.w.toNat := Nat.two_pow_pos _
    simp only [hnext, hwidth, pow_succ]
    omega

/-- As long as codes are left, EXTENDs assign them in order from NEXT. -/
theorem TableInRange.replies_extend (n : Nat) {r : Regs} (h : TableInRange r) (hn : r.next.toNat + n ≤ 65536) :
    (replies (List.replicate n extendWord) r).2.next.toNat = r.next.toNat + n ∧
    (replies (List.replicate n extendWord) r).1.map (fun q => q.code.map BitVec.toNat) =
      (List.range n).map (fun j => some (r.next.toNat + j)) := by
  induction n generalizing r with
  | zero => exact ⟨rfl, rfl⟩
  | succ n ih =>
    obtain ⟨h', hnext, hcode⟩ := h.extendBody (by omega)
    obtain ⟨ihn, ihc⟩ := ih h' (by omega)
    rw [List.replicate_succ, replies_cons, replyWord_extend h.started, List.range_succ_eq_map]
    refine ⟨by rw [ihn, hnext]; omega, ?_⟩
    rw [List.map_cons, List.map_cons, hcode, ihc, hnext, List.map_map]
    simp [Function.comp_def, Nat.add_assoc, Nat.add_comm 1]

/-- A code EXTEND assigns is one less than the NEXT it leaves (42_policy.md R74). -/
theorem extendRegs_next_of_code {r : Regs} {c : Counter} (h : (decision Config.hw r).code = some c) :
    (extendRegs Config.hw r).next = c + 1 := by
  rcases decision_conditions Config.hw r with hlt | ⟨hf, hw⟩ | ⟨hf, hw, hr⟩ | ⟨hf, hw, hm, hb⟩ | ⟨hf, hw, hm, hb, he⟩
  · rw [decision_assigned hlt] at h
    rw [extendRegs_assigned hlt, Option.some.inj h]
  · rw [decision_grew hf hw] at h
    rw [extendRegs_grew hf hw, Option.some.inj h]
  · rw [decision_reset hf hw hr] at h
    rw [extendRegs_reset hf hw hr, ← Option.some.inj h]
    rfl
  · rw [decision_baseline hf hw hm hb] at h
    exact absurd h nofun
  · rw [decision_keep hf hw hm hb he] at h
    exact absurd h nofun

/-- An EXTEND that answers a code was performed: a rejection and a fault name none. -/
theorem replyWord_extend_of_code {r : Regs} {c : Code} (h : (replyWord extendWord r).2.code = some c) :
    replyWord extendWord r = extendBody Config.hw r := by
  rcases replyWord_cases extendWord r with ⟨-, ha⟩ | ⟨_, -, ha⟩ | ⟨i, hd, -, ha⟩ <;> rw [ha] at h ⊢
  · exact absurd h nofun
  · exact absurd h nofun
  · obtain rfl : Instr.extend 0 = i := Except.ok.inj ((decode_encode _).symm.trans hd)
    rfl

/-! ### A kept baseline (42_policy.md R82) -/

/-- A command that changes no register is answered alike however often it is issued. -/
theorem replies_replicate_of_fixed {cmd : Word} {r : Regs} {q : Response} (h : replyWord cmd r = (r, q)) (n : Nat) :
    replies (List.replicate n cmd) r = (List.replicate n q, r) := by
  induction n with
  | zero => rfl
  | succ n ih => simp [List.replicate_succ, h, ih]

end Sys2Proof.Machine

namespace Sys2Proof.Safety

open Sys2Proof.Machine

/-- An EXTEND that assigns a code leaves NEXT one above it, the 16 bits of `resp_code` holding it whole. -/
theorem RegsInv.extendBody_next_of_code {r : Regs} (h : RegsInv r) {c : Code} (hc : (extendBody Config.hw r).2.code = some c) :
    (extendBody Config.hw r).1.next.toNat = c.toNat + 1 := by
  obtain ⟨-, hw9, hw16, hlo, hhi⟩ := h.range
  obtain ⟨d, hd, rfl⟩ := Option.map_eq_some_iff.1 hc
  obtain ⟨-, hd16, hcode⟩ := decision_inRange hw_legal le_rfl hw9 hw16 hlo hhi
  obtain ⟨-, hdlt⟩ := hcode d hd
  have hfit : d.toNat < 2 ^ 16 := hdlt.trans_le (Nat.pow_le_pow_right (by decide) hd16)
  rw [extendBody, extendRegs_next_of_code hd]
  bv_omega

/-- In S_ATCAP with a baseline the block is in Monitor mode with its table full at 16 bits. -/
theorem RegsInv.full_of_baseline {r : Regs} (h : RegsInv r) (hb : r.baseValid = true) :
    r.mode = .monitorMode ∧ r.w.toNat = 16 ∧ r.next.toNat = 65536 ∧ 2 ^ r.w.toNat ≤ r.next.toNat := by
  obtain ⟨hm, hw, hn, -⟩ := h.baseline.1 hb
  exact ⟨hm, hw, hn, by rw [hw, hn]; decide⟩

/-- In S_ATCAP with a baseline not exceeded EXTEND keeps every register (42_policy.md R82). -/
theorem RegsInv.replyWord_extend_keep {r : Regs} (h : RegsInv r) (hf : r.fsm = .sAtcap) (hb : r.baseValid = true)
    (he : exceeds Config.hw r = false) :
    replyWord extendWord r = (r, { status := .rsOk, outcome := .oNoopKeep, code := none, w := 16, data := 0 }) := by
  obtain ⟨hm, hw, hn, hfull⟩ := h.full_of_baseline hb
  have hw16 : r.w = 16 := BitVec.eq_of_toNat_eq hw
  rw [replyWord_extend (by simp [Started, hf]), extendBody_keep hfull hw.ge hm hb he, if_pos ⟨hw, hn⟩, ← hf, ← hw16]

end Sys2Proof.Safety

namespace Sys2Proof.Proofs

open Sys2Proof.Machine Sys2Proof.Safety

/-- Settles O36: EXTEND has a fixed point in S_ATCAP while the threshold is not exceeded, and resets when it is. -/
theorem keepsUntilExceeded : Obligations.KeepsUntilExceeded := by
  refine fun s h hf hb => ⟨fun he n => ?_, fun he => ?_⟩
  · obtain ⟨t, ht, hregs⟩ := issueAll_eq (List.replicate n extendWord) s
    rw [replies_replicate_of_fixed (h.replyWord_extend_keep hf hb he)] at ht hregs
    exact ⟨t, ht, hregs⟩
  · obtain ⟨-, hw, -, hfull⟩ := h.full_of_baseline hb
    refine ⟨_, _, issue_eq extendWord s, ?_⟩
    rw [replyWord_extend (by simp [Started, hf]), extendBody_reset hfull hw.ge (.inr ⟨hb, he⟩)]
    exact ⟨rfl, rfl⟩

/-- Settles O39, row by row. -/
theorem fsmTransitionTable : Obligations.FsmTransitionTable := by
  refine ⟨fun s t inp hst hr => ?_, fun cmd s t q h hrun hq => ?_⟩
  · rw [edge, if_pos hr] at hst
    cases hst
    rfl
  · obtain ⟨rfl, rfl⟩ := eq_answer_of_runWord hrun hq
    refine ⟨fun hcmd => ?start, fun hf hop => ?idle, replyWord_fsm_of_rsFault, fun hf hcmd => ?belowCapacity,
      fun hf hcmd => ?atCapacity, fun hf hcmd => (replyWord_wordEffect cmd s.regs).fsm_of_faulted hf hcmd,
      fun _ hok hop => replyWord_fsm_of_rsOk hok (by omega) (by omega),
      fun hf hok hop => (replyWord_fsm_of_rsOk hok (by omega) (by omega)).trans hf⟩
    case start =>
      obtain ⟨m, hm⟩ := replyWord_start hcmd s.regs
      rw [hm]
      exact ⟨rfl, rfl⟩
    case idle =>
      obtain ⟨i, hd, hn⟩ := exists_decode_of_needsRun hop
      obtain rfl := encode_of_decode hd
      rw [replyWord_encode]
      refine ⟨by rw [answer_regs, reply_of_idle hf hn, takeFault_fsm], fun j hj hwf => ?_⟩
      obtain rfl := Except.ok.inj (hd.symm.trans hj)
      exact reply_fcause_of_idle hf hn hwf
    case belowCapacity =>
      have hs : Started s.regs := by rcases hf with hf | hf <;> simp [Started, hf]
      have hne : s.regs.fsm ≠ .sAtcap := by rcases hf with hf | hf <;> simp [hf]
      rw [← extendWord_eq] at hcmd
      rw [hcmd, replyWord_extend hs]
      exact extendBody_below_capacity h.regs hs hne
    case atCapacity =>
      have hs : Started s.regs := by simp [Started, hf]
      obtain ⟨hw, hn⟩ := (h.regs.atcap hs).1 hf
      rw [← extendWord_eq] at hcmd
      rw [hcmd, replyWord_extend hs]
      exact extendBody_at_capacity hw hn

/-- Settles O40, by the invariant and what an accepted word does to W. -/
theorem widthMonotonic : Obligations.WidthMonotonic := by
  intro cmd s t q h hrun hq
  obtain ⟨rfl, rfl⟩ := eq_answer_of_runWord hrun hq
  have ha := replyWord_wordEffect cmd s.regs
  obtain ⟨-, -, hw16, -⟩ := h.regs.range
  obtain ⟨-, hlo, hhi, -⟩ := (h.regs.wordEffect ha).range
  refine ⟨hlo, hhi, ha.w_cases.imp_right (Or.imp_left ?_)⟩
  rintro ⟨ho, hcmd, hw⟩
  exact ⟨ho, hcmd, by rw [answer_regs, hw]; bv_omega⟩

/-- Settles O41: only an EXTEND performed names a code, which the decision keeps in range and NEXT follows. -/
theorem assignedCodeFits : Obligations.AssignedCodeFits := by
  intro s t q h hrun hq
  obtain ⟨rfl, rfl⟩ := eq_answer_of_runWord hrun hq
  have ha := replyWord_wordEffect extendWord s.regs
  obtain ⟨-, hlo, -, -⟩ := (h.regs.wordEffect ha).range
  refine ⟨(show 256 < 2 ^ 9 by decide).trans_le (Nat.pow_le_pow_right (by decide) hlo), fun c hc => ?_⟩
  obtain ⟨-, hc257, hclt⟩ := h.regs.replyWord_responseInv extendWord c hc
  have hext := replyWord_extend_of_code hc
  rw [answer_regs]
  rw [hext] at hc hclt ⊢
  exact ⟨hc257, hclt, h.regs.extendBody_next_of_code hc⟩

/-- Settles O42, by induction on the number of EXTENDs. -/
theorem codesAssignedInOrder : Obligations.CodesAssignedInOrder := by
  intro s a n hs hw hnext ha hn
  have hin : TableInRange s.regs := ⟨hs, by simp [hw], by rw [hw, hnext]; change 257 + a ≤ 512; omega⟩
  obtain ⟨t, ht, hregs⟩ := issueAll_eq (List.replicate n extendWord) s
  obtain ⟨hn', hcodes⟩ := hin.replies_extend n (by omega)
  rw [hnext] at hn' hcodes
  exact ⟨_, t, ht, by rw [hregs, hn'], hcodes⟩

end Sys2Proof.Proofs
end

section
/-! PROOFS. NOP, READ and PEEK observe and do not act (42_policy.md R78, R84). -/
namespace Sys2Proof.Machine

open Sys2Proof.Safety

/-- A legal NOP, READ or PEEK outside S_IDLE writes no register (20_memory.md R42). -/
theorem reply_observer_regs {i : Instr} (ho : isObserver i = true) (hwf : i.WellFormed) {r : Regs} (hf : r.fsm ≠ .sIdle) :
    (reply i r).1 = r := by
  have hc : check Config.hw i r = .fNone := by
    rw [check_eq_none_iff]
    cases i with
    | nop _ | read _ _ | peek _ => exact ⟨hwf, fun _ => hf, rfl⟩
    | start _ _ | account _ | extend _ => exact absurd ho nofun
  rcases reply_cases i r with ⟨-, -, h⟩ | ⟨-, hne, -⟩ | ⟨-, -, h⟩
  · rw [h, reject]
  · exact absurd hc hne
  · rw [h]
    cases i with
    | nop _ | peek _ => rfl
    | read _ _ => exact readBody_regs _ _ _
    | start _ _ | account _ | extend _ => exact absurd ho nofun

/-- The same of a list of them. -/
theorem replies_observers_regs {is : List Instr} (h : ∀ i ∈ is, i.WellFormed ∧ isObserver i = true) {r : Regs}
    (hf : r.fsm ≠ .sIdle) : (replies (is.map encode) r).2 = r := by
  induction is with
  | nil => rfl
  | cons i is ih =>
    obtain ⟨⟨hwf, ho⟩, his⟩ := List.forall_mem_cons.1 h
    rw [List.map_cons, replies_cons, replyWord_encode, reply_observer_regs ho hwf hf]
    exact ih his

/-- No word leads to S_IDLE from another state (42_policy.md R80). -/
theorem WordEffect.fsm_ne_idle {cmd : Word} {r : Regs} {a : Regs × Response} (ha : WordEffect cmd r a) (hf : r.fsm ≠ .sIdle) :
    a.1.fsm ≠ .sIdle := by
  cases ha with
  | unchanged hu => rwa [hu]
  | fault _ _ => simp [takeFault_fsm]
  | start _ _ => exact nofun
  | account _ _ _ => rwa [(accountBody_fsm_w _ _ _).1]
  | extend _ _ =>
    simp only [extendBody, extendRegs, nextFsm]
    split
    · exact nofun
    · split <;> exact nofun

/-! ### PEEK predicts EXTEND (42_policy.md R78) -/

/-- PEEK never leaves the block in S_IDLE: there it faults. -/
theorem reply_peek_fsm_ne_idle (r : Regs) : (reply (.peek 0) r).1.fsm ≠ .sIdle := by
  by_cases hf : r.fsm = .sIdle
  · rw [reply_of_idle hf rfl, takeFault_fsm]
    exact nofun
  · rwa [reply_observer_regs rfl rfl hf]

/-- In S_FAULTED ACCOUNT, EXTEND and PEEK are rejected unchecked (60_exceptions.md R102). -/
theorem reply_of_rejected {i : Instr} {r : Regs} (hf : r.fsm = .sFaulted) (hp : performedWhenFaulted i.op = false) :
    reply i r = reject r := if_pos ⟨hf, hp⟩

/-- Right after PEEK, EXTEND answers PEEK's outcome, code and width. In S_IDLE the PEEK faults and the EXTEND is rejected. -/
theorem reply_extend_after_peek (r : Regs) :
    (reply (.extend 0) (reply (.peek 0) r).1).2.outcome = (reply (.peek 0) r).2.outcome ∧
    (reply (.extend 0) (reply (.peek 0) r).1).2.code = (reply (.peek 0) r).2.code ∧
    (reply (.extend 0) (reply (.peek 0) r).1).2.w = (reply (.peek 0) r).2.w := by
  by_cases hi : r.fsm = .sIdle
  · rw [reply_of_idle hi rfl, reply_of_rejected (takeFault_fsm _ _ r) rfl]
    exact ⟨rfl, rfl, takeFault_w _ _ r⟩
  · rw [reply_observer_regs rfl rfl hi]
    by_cases hf : r.fsm = .sFaulted
    · rw [reply_of_rejected hf rfl, reply_of_rejected hf rfl]
      exact ⟨rfl, rfl, rfl⟩
    · rw [reply_extend ⟨hi, hf⟩, reply_peek ⟨hi, hf⟩, extendBody_resp]
      exact ⟨rfl, rfl, rfl⟩

/-! ### Leaving the observers out (42_policy.md R84) -/

/-- A run of legal commands from outside S_IDLE ends with the same registers and the same EXTEND responses without its observers. -/
theorem replies_filter_observers {is : List Instr} (h : ∀ i ∈ is, i.WellFormed) {r : Regs} (hf : r.fsm ≠ .sIdle) :
    (replies ((is.filter fun i => !isObserver i).map encode) r).2 = (replies (is.map encode) r).2 ∧
    extendResponses (is.filter fun i => !isObserver i) (replies ((is.filter fun i => !isObserver i).map encode) r).1 =
      extendResponses is (replies (is.map encode) r).1 := by
  induction is generalizing r with
  | nil => exact ⟨rfl, rfl⟩
  | cons i is ih =>
    obtain ⟨hwf, his⟩ := List.forall_mem_cons.1 h
    cases ho : isObserver i with
    | true =>
      have hne : i.op ≠ .extend := by
        intro he
        simp [isObserver, he] at ho
      obtain ⟨hregs, hresp⟩ := ih his hf
      simp [ho, replyWord_encode, reply_observer_regs ho hwf hf, extendResponses, hne, hregs, hresp]
    | false =>
      obtain ⟨hregs, hresp⟩ := ih his ((replyWord_wordEffect (encode i) r).fsm_ne_idle hf)
      simp [ho, extendResponses, hregs, hresp]

end Sys2Proof.Machine

namespace Sys2Proof.Proofs

open Sys2Proof.Machine Sys2Proof.Safety

/-- Settles O45: the registers the PEEK left, which the observers keep, are the ones EXTEND decides from. -/
theorem peekPredictsExtend : Obligations.PeekPredictsExtend := by
  intro s between h
  obtain ⟨u, hu, hregs⟩ := issueAll_eq (between.map encode) { s with regs := (replyWord peekWord s.regs).1, resp := none }
  have hpeek : replyWord peekWord s.regs = reply (.peek 0) s.regs := replyWord_encode _ _
  refine ⟨_, _, _, u, _, _, issue_eq peekWord s, hu, issue_eq extendWord u, ?_⟩
  rw [hregs, hpeek, replies_observers_regs h (reply_peek_fsm_ne_idle _), replyWord_extendWord]
  exact reply_extend_after_peek s.regs

/-- Settles O46: each run agrees with the run of its commands that are no observers. -/
theorem observersDoNotMatter : Obligations.ObserversDoNotMatter := by
  intro s is js hf his hjs hfilter
  obtain ⟨t, ht, htr⟩ := issueAll_eq (is.map encode) s
  obtain ⟨t', ht', htr'⟩ := issueAll_eq (js.map encode) s
  obtain ⟨hregs, hresp⟩ := replies_filter_observers his hf
  obtain ⟨hregs', hresp'⟩ := replies_filter_observers hjs hf
  rw [hfilter] at hregs hresp
  exact ⟨_, t, _, t', ht, ht', by rw [htr, htr', ← hregs, hregs'], hresp.symm.trans hresp'⟩

end Sys2Proof.Proofs
end

section
/-! PROOFS. The hosts' sequences (45_host_sequences.md): the pseudo-instructions, the decoder's commands beside the encoder's, the
width of the sentinel, and the empty input. -/
namespace Sys2Proof.Machine

open Sys2Proof.Safety

/-! ### The decoder's commands without its PEEKs (45_host_sequences.md R88, R90, R93) -/

/-- Commands with different opcodes have different words. -/
theorem encode_ne_of_op_ne {i j : Instr} (h : i.op ≠ j.op) : encode i ≠ encode j := by
  intro he
  have hd : (Except.ok i : Except DecodeError Instr) = .ok j := by rw [← decode_encode, he, decode_encode]
  exact h (congrArg Instr.op (Except.ok.inj hd))

theorem startWord_ne_peekWord (m : Mode) : startWord m ≠ peekWord := encode_ne_of_op_ne nofun
theorem accountWord_ne_peekWord (n : Len) : accountWord n ≠ peekWord := encode_ne_of_op_ne nofun
theorem extendWord_ne_peekWord : extendWord ≠ peekWord := encode_ne_of_op_ne nofun

/-- After the first code, what the decoder issues beside its PEEKs is what the encoder issues. -/
theorem encoderSteps_cons (n : Len) (ns : List Len) :
    encoderSteps (n :: ns) = accountWord n :: (decoderSteps ns).filter (fun cmd => cmd ≠ peekWord) := by
  induction ns generalizing n with
  | nil => simp [encoderSteps, elast, decoderSteps]
  | cons k ns ih => simp [encoderSteps, estep, decoderSteps, ih, extendWord_ne_peekWord, accountWord_ne_peekWord]

theorem decoderCommands_filter (m : Mode) (ns : List Len) :
    (decoderCommands m ns).filter (fun cmd => cmd ≠ peekWord) = encoderCommands m ns := by
  cases ns with
  | nil => simp [decoderCommands, encoderCommands, encoderSteps, startWord_ne_peekWord]
  | cons n ns =>
    simp [decoderCommands, encoderCommands, encoderSteps_cons, startWord_ne_peekWord, accountWord_ne_peekWord]

/-- Both hosts begin with START. -/
theorem decoderCommands_eq_cons (m : Mode) (ns : List Len) :
    decoderCommands m ns = startWord m :: (decoderCommands m ns).tail := by
  cases ns <;> rfl

/-! ### The registers they leave -/

/-- `START m` begins a run of its mode in every state (40_control.md R64). -/
theorem replyWord_startWord (m : Mode) (r : Regs) :
    replyWord (startWord m) r = (beginRun Config.hw m, okResponse 9 0) := by
  rw [startWord, replyWord_encode]
  cases m <;> exact reply_of_control rfl rfl r

/-- `START m` issued, its response taken. -/
theorem issue_startWord (m : Mode) (s : State) :
    issue (startWord m) s = some (okResponse 9 0, { s with regs := beginRun Config.hw m, resp := none }) := by
  rw [issue_eq, replyWord_startWord]

/-- The word of PEEK writes no register outside S_IDLE, S_FAULTED included (42_policy.md R77). -/
theorem replyWord_peekWord_regs {r : Regs} (hf : r.fsm ≠ .sIdle) : (replyWord peekWord r).1 = r := by
  rw [peekWord, replyWord_encode]
  exact reply_observer_regs rfl rfl hf

/-- From outside S_IDLE the PEEKs of any list of words, legal or not, leave no trace in the registers. -/
theorem replies_filter_peekWord_regs (cmds : List Word) {r : Regs} (hf : r.fsm ≠ .sIdle) :
    (replies (cmds.filter fun cmd => cmd ≠ peekWord) r).2 = (replies cmds r).2 := by
  induction cmds generalizing r with
  | nil => rfl
  | cons cmd cmds ih =>
    by_cases hc : cmd = peekWord
    · simpa [hc, replyWord_peekWord_regs hf] using ih hf
    · simpa [hc] using ih ((replyWord_wordEffect cmd r).fsm_ne_idle hf)

/-- Behind a START neither the registers before it nor the PEEKs after it matter. -/
theorem replies_startWord_filter_regs (m : Mode) (cmds : List Word) (r r' : Regs) :
    (replies ((startWord m :: cmds).filter fun cmd => cmd ≠ peekWord) r).2 = (replies (startWord m :: cmds) r').2 := by
  have h := replies_filter_peekWord_regs cmds (r := beginRun Config.hw m) nofun
  simpa [startWord_ne_peekWord, replyWord_startWord] using h

/-! ### The wire (92_eei_decisions.md D40) -/

theorem putBits_length (o : Config.WireBitOrder) (width value : Nat) : (putBits o width value).length = width := by
  cases o <;> simp [putBits]

/-- The low bits of a number, least significant first, add up to the number modulo their power of two. -/
theorem foldr_testBit_range (width value : Nat) :
    ((List.range width).map value.testBit).foldr (fun b v => 2 * v + b.toNat) 0 = value % 2 ^ width := by
  induction width generalizing value with
  | zero => simp [Nat.mod_one]
  | succ width ih =>
    have htail : (List.range width).map (value.testBit ∘ Nat.succ) = (List.range width).map (value / 2).testBit := by
      simp [Function.comp_def, Nat.testBit_succ]
    rw [List.range_succ_eq_map, List.map_cons, List.map_map, htail, List.foldr_cons, ih, Nat.toNat_testBit, pow_succ',
      Nat.mod_mul]
    simp [Nat.add_comm]

/-- In either order the bits of a codeword read back as its value. -/
theorem bitsValue_putBits (o : Config.WireBitOrder) (width value : Nat) :
    bitsValue o (putBits o width value) = value % 2 ^ width := by
  cases o with
  | lsbFirst => exact foldr_testBit_range width value
  | msbFirst => rw [bitsValue, putBits, List.foldl_reverse, foldr_testBit_range]

/-- A codeword at the head of the channel is read back, whatever follows it. -/
theorem getBits_putBits (o : Config.WireBitOrder) (width value : Nat) (rest : List Bool) :
    getBits o width (putBits o width value ++ rest) = some (value % 2 ^ width, rest) := by
  have htake : (putBits o width value ++ rest).take width = putBits o width value :=
    List.take_left' (putBits_length o width value)
  have hdrop : (putBits o width value ++ rest).drop width = rest := List.drop_left' (putBits_length o width value)
  rw [getBits, if_neg (by simp [putBits_length]), htake, hdrop, bitsValue_putBits]

/-- A tag names its mode: the two tags differ (45_host_sequences.md R94). -/
theorem tagMode_modeTag (tags : Config.ModeTags) (m : Mode) : tagMode tags (modeTag tags m) = some m := by
  cases m with
  | resetMode => simp [tagMode, modeTag]
  | monitorMode => simp [tagMode, modeTag, tags.distinct.symm]

/-! ### The hosts on the empty input (45_host_sequences.md R96) -/

/-- The encoder host on the empty input: START, then the tag and the sentinel in `W0` bits. -/
theorem encodeHost_nil (o : Config.WireBitOrder) (tags : Config.ModeTags) (m : Mode) (s : State) :
    encodeHost o tags m [] s =
      some ({ s with regs := beginRun Config.hw m, resp := none },
        closeChannel (putBits o 8 (modeTag tags m).toNat ++ putBits o 9 256)) := by
  rw [encodeHost, issue_startWord]
  rfl

/-- The decoder host on a tag and a sentinel, whatever follows them: START, and no output. -/
theorem decodeHost_sentinel (o : Config.WireBitOrder) (tags : Config.ModeTags) (m : Mode) (rest : List Bool) (s : State) :
    decodeHost o tags (putBits o 8 (modeTag tags m).toNat ++ (putBits o 9 256 ++ rest)) s =
      ({ block := { s with regs := beginRun Config.hw m, resp := none }, table := [], prev := [], output := [], bits := rest },
        none) := by
  have htag : BitVec.ofNat 8 ((modeTag tags m).toNat % 256) = modeTag tags m := by
    rw [Nat.mod_eq_of_lt (modeTag tags m).isLt, BitVec.ofNat_toNat, BitVec.setWidth_eq]
  simp [decodeHost, getBits_putBits, htag, tagMode_modeTag, issue_startWord]

end Sys2Proof.Machine

namespace Sys2Proof.Safety

open Sys2Proof.Machine

/-! ### The width of the sentinel (45_host_sequences.md R95) -/

/-- A decision moves the width exactly on a full table that grows or is reset; a reset table was 16 bits wide, not W0. -/
theorem RegsInv.decision_w_ne_iff_full {r : Regs} (h : RegsInv r) :
    (decision Config.hw r).w ≠ r.w ↔
      r.next.toNat = 2 ^ r.w.toNat ∧
        (r.w.toNat < 16 ∨ r.mode = .resetMode ∨ (r.baseValid = true ∧ exceeds Config.hw r = true)) := by
  obtain ⟨-, -, -, -, hle⟩ := h.range
  rw [decision_w_ne_iff]
  rcases decision_conditions Config.hw r with hlt | ⟨hf, hw⟩ | ⟨hf, hw, hr⟩ | ⟨hf, hw, hm, hb⟩ | ⟨hf, hw, hm, hb, he⟩
  · simp [decision_assigned hlt, hlt.ne]
  · exact iff_of_true (.inl (by rw [decision_grew hf hw])) ⟨hle.antisymm hf, .inl hw⟩
  · have hw9 : r.w ≠ 9 := fun h9 => absurd (h9 ▸ hw) (by decide)
    exact iff_of_true (.inr ⟨by rw [decision_reset hf hw hr, resetDecision], hw9⟩) ⟨hle.antisymm hf, .inr hr⟩
  · simp [decision_baseline hf hw hm hb, hm, hb, show 16 ≤ r.w.toNat from hw]
  · simp [decision_keep hf hw hm hb he, hm, he, show 16 ≤ r.w.toNat from hw]

end Sys2Proof.Safety

namespace Sys2Proof.Proofs

open Sys2Proof.Machine Sys2Proof.Safety

/-- Settles O47: the encoder's commands are the decoder's without its PEEKs, which write nothing behind the START. -/
theorem decoderFollowsEncoder : Obligations.DecoderFollowsEncoder := by
  refine fun m ns => ⟨decoderCommands_filter m ns, fun s s' => ?_⟩
  obtain ⟨t, ht, htr⟩ := issueAll_eq (encoderCommands m ns) s
  obtain ⟨t', ht', htr'⟩ := issueAll_eq (decoderCommands m ns) s'
  refine ⟨_, t, _, t', ht, ht', ?_⟩
  rw [htr, htr', ← decoderCommands_filter, decoderCommands_eq_cons]
  exact replies_startWord_filter_regs m _ s.regs s'.regs

/-- Settles O49: in a run PEEK answers the width of the decision. -/
theorem sentinelWidthHazard : Obligations.SentinelWidthHazard := by
  intro s hinv hs
  have hpeek : replyWord peekWord s.regs = peekBody Config.hw s.regs := (replyWord_encode _ _).trans (reply_peek hs)
  refine ⟨_, _, issue_eq peekWord s, ?_⟩
  rw [hpeek]
  exact hinv.regs.decision_w_ne_iff_full

/-- Settles O50: both hosts issue START alone, and the decoder reads back the tag and the sentinel that the encoder wrote. -/
theorem emptyInput : Obligations.EmptyInput := by
  intro o tags m s s'
  refine ⟨rfl, _, encodeHost_nil o tags m s, ?_⟩
  rw [closeChannel, List.append_assoc, decodeHost_sentinel]
  exact ⟨rfl, rfl, rfl⟩

/-- Settles O6, by the words of ACCOUNT and EXTEND. -/
theorem pseudoInstructions : Obligations.PseudoInstructions := by
  intro n
  have hextend : encode (.extend 0) = 0x30000000 := extendWord_eq
  simp only [assemble, encode_account, hextend, and_self]

end Sys2Proof.Proofs
end

section
/-! PROOFS. Faults (60_exceptions.md R97 to R104, R113): Check read off the raw word, how every accepted word ends by it, and what
leaves S_FAULTED. -/
namespace Sys2Proof.Machine

open Sys2Proof.Safety

/-- In S_FAULTED only NOP, START and READ are checked (60_exceptions.md R102). -/
abbrev CheckedWhenFaulted (cmd : Word) : Prop := opNumber cmd = 0 ∨ opNumber cmd = 1 ∨ opNumber cmd = 5

/-! ### Check's tests on the raw word (60_exceptions.md R98) -/

/-- Bit 1 of a word is the upper bit of its lowest two. -/
theorem getLsbD_one_iff (cmd : Word) : cmd.getLsbD 1 = true ↔ 2 ≤ cmd.toNat % 4 := by
  rw [BitVec.getLsbD, Nat.testBit_eq_decide_div_mod_eq, decide_eq_true_eq]
  omega

section Tests

variable {cmd : Word} {i : Instr} (h : decode cmd = .ok i)
include h

/-- An illegal mode is a START with `cmd[1]` set. -/
theorem modeLegal_eq_false_iff : i.modeLegal = false ↔ opNumber cmd = 1 ∧ cmd.getLsbD 1 = true := by
  rw [opNumber_of_decode h]
  cases i with
  | start rsvd mode =>
    rw [getLsbD_one_iff, ← mode_toNat_of_decode h, Instr.modeLegal, decide_eq_false_iff_not, not_lt]
    exact (and_iff_right rfl).symm
  | nop _ | account _ | extend _ | peek _ | read _ _ => exact iff_of_false nofun nofun

/-- An illegal register number is a READ of 0xB or more. -/
theorem regLegal_eq_false_iff : i.regLegal = false ↔ opNumber cmd = 5 ∧ cmd.toNat % 2 ^ 4 ≥ 0xB := by
  rw [opNumber_of_decode h]
  cases i with
  | read rsvd reg =>
    rw [show cmd.toNat % 2 ^ 4 = reg.toNat from (reg_toNat_of_decode h).symm, Instr.regLegal, decide_eq_false_iff_not, not_lt]
    exact (and_iff_right rfl).symm
  | nop _ | start _ _ | account _ | extend _ | peek _ => exact iff_of_false nofun nofun

/-- An illegal length is an ACCOUNT of 0 symbols. -/
theorem lenLegal_eq_false_iff : i.lenLegal = false ↔ opNumber cmd = 2 ∧ cmd.toNat % 2 ^ 28 = 0 := by
  rw [opNumber_of_decode h]
  cases i with
  | account len =>
    rw [← len_toNat_of_decode h, Instr.lenLegal, bne_eq_false_iff_eq, ← BitVec.toNat_inj]
    exact (and_iff_right rfl).symm
  | nop _ | start _ _ | extend _ | peek _ | read _ _ => exact iff_of_false nofun nofun

/-- The commands that need a run are ACCOUNT, EXTEND and PEEK. -/
theorem needsRun_iff : needsRun i.op = true ↔ opNumber cmd = 2 ∨ opNumber cmd = 3 ∨ opNumber cmd = 4 := by
  rw [opNumber_of_decode h]
  generalize i.op = op
  cases op <;> decide

/-- The commands performed in S_FAULTED are NOP, START and READ (60_exceptions.md R102). -/
theorem performedWhenFaulted_iff : performedWhenFaulted i.op = true ↔ CheckedWhenFaulted cmd := by
  rw [CheckedWhenFaulted, opNumber_of_decode h]
  generalize i.op = op
  cases op <;> decide

/-- A sum past 2^64 - 1 is a Monitor-mode ACCOUNT's. -/
theorem overflows_iff (r : Regs) :
    overflows Config.hw i r = true ↔ opNumber cmd = 2 ∧ r.mode = .monitorMode ∧
      (r.emitBits.toNat + r.w.toNat > 2 ^ 64 - 1 ∨ r.repBits.toNat + 8 * (cmd.toNat % 2 ^ 28) > 2 ^ 64 - 1) := by
  rw [opNumber_of_decode h]
  cases i with
  | account len =>
    rw [← len_toNat_of_decode h, overflows, totalsOverflow_iff]
    exact (and_iff_right rfl).symm
  | nop _ | start _ _ | extend _ | peek _ | read _ _ => exact iff_of_false nofun nofun

/-- A word that decodes has an opcode below 6. -/
theorem opNumber_lt_six_of_decode : opNumber cmd < 6 := by
  rw [opNumber_of_decode h]
  generalize i.op = op
  cases op <;> decide

/-- Check of a command is Check on its word: the tests agree one by one. -/
theorem check_eq_checkWord (r : Regs) : check Config.hw i r = checkWord cmd r := by
  have hop : ¬ opNumber cmd ≥ 6 := Nat.not_le.2 (opNumber_lt_six_of_decode h)
  have hrsvd : i.reservedClear = false ↔ cmd &&& rsvdMaskOf (opNumber cmd) ≠ 0 := by
    rw [← Bool.not_eq_true, reservedClear_iff h]
  simp only [check, checkWord, hop, hrsvd, modeLegal_eq_false_iff h, regLegal_eq_false_iff h, lenLegal_eq_false_iff h,
    needsRun_iff h, overflows_iff h, if_false]

end Tests

/-- A reserved opcode's cause (60_exceptions.md R97). -/
theorem checkWord_of_six_le {cmd : Word} (h : 6 ≤ opNumber cmd) (r : Regs) : checkWord cmd r = .fIllegalOp := if_pos h

/-! ### How an accepted word ends, by its opcode and its cause -/

/-- Every way an accepted word ends: rejected unchecked in S_FAULTED, a fault with the cause Check names, or performed. -/
theorem replyWord_cases_of_checkWord (cmd : Word) (r : Regs) :
    (r.fsm = .sFaulted ∧ ¬ CheckedWhenFaulted cmd ∧ replyWord cmd r = reject r) ∨
    ((r.fsm = .sFaulted → CheckedWhenFaulted cmd) ∧ checkWord cmd r ≠ .fNone ∧
      replyWord cmd r = takeFault (checkWord cmd r) cmd r) ∨
    ((r.fsm = .sFaulted → CheckedWhenFaulted cmd) ∧ checkWord cmd r = .fNone ∧ (replyWord cmd r).2.status = .rsOk) := by
  rcases Nat.lt_or_ge (opNumber cmd) 6 with hlt | hge
  · obtain ⟨i, hd⟩ := exists_decode_of_lt_six hlt
    rw [← check_eq_checkWord hd, ← performedWhenFaulted_iff hd]
    obtain rfl := encode_of_decode hd
    rw [replyWord_encode]
    rcases reply_cases i r with ⟨hf, hn, h⟩ | ⟨hp, hc, h⟩ | ⟨hp, hc, h⟩
    · exact .inl ⟨hf, Bool.eq_false_iff.1 hn, h⟩
    · exact .inr (.inl ⟨hp, hc, h⟩)
    · exact .inr (.inr ⟨hp, hc, by rw [h, effect_status]⟩)
  · rw [replyWord, decode_of_six_le hge, checkWord_of_six_le hge]
    by_cases hf : r.fsm = .sFaulted
    · exact .inl ⟨hf, by unfold CheckedWhenFaulted; omega, if_pos hf⟩
    · exact .inr (.inl ⟨fun h => absurd h hf, nofun, if_neg hf⟩)

/-- A word that S_FAULTED does not check is rejected there (60_exceptions.md R102). -/
theorem runWord_of_not_checked {cmd : Word} {s : State} (hf : s.regs.fsm = .sFaulted) (hop : ¬ CheckedWhenFaulted cmd) :
    runWord cmd s = .next (rejected s) := by
  rw [runWord_eq, ← answer_reject]
  rcases replyWord_cases_of_checkWord cmd s.regs with ⟨-, -, h⟩ | ⟨hp, -, -⟩ | ⟨hp, -, -⟩
  · rw [h]
  · exact absurd (hp hf) hop
  · exact absurd (hp hf) hop

/-- A word that is checked and has a cause takes the fault (60_exceptions.md R100). -/
theorem runWord_of_cause {cmd : Word} {s : State} (hp : s.regs.fsm = .sFaulted → CheckedWhenFaulted cmd)
    (hc : checkWord cmd s.regs ≠ .fNone) : runWord cmd s = .next (faulted (checkWord cmd s.regs) cmd s) := by
  rw [runWord_eq, ← answer_takeFault]
  rcases replyWord_cases_of_checkWord cmd s.regs with ⟨hf, hn, -⟩ | ⟨-, -, h⟩ | ⟨-, hnone, -⟩
  · exact absurd (hp hf) hn
  · rw [h]
  · exact absurd hnone hc

/-- A word that is checked and has no cause is performed and answered RS_OK. -/
theorem replyWord_status_of_no_cause {cmd : Word} {r : Regs} (hp : r.fsm = .sFaulted → CheckedWhenFaulted cmd)
    (hc : checkWord cmd r = .fNone) : (replyWord cmd r).2.status = .rsOk := by
  rcases replyWord_cases_of_checkWord cmd r with ⟨hf, hn, -⟩ | ⟨-, hne, -⟩ | ⟨-, -, h⟩
  · exact absurd (hp hf) hn
  · exact absurd hc hne
  · exact h

/-- A word answered RS_FAULT has a cause and took the fault with it. -/
theorem replyWord_of_rsFault {cmd : Word} {r : Regs} (h : (replyWord cmd r).2.status = .rsFault) :
    checkWord cmd r ≠ .fNone ∧ replyWord cmd r = takeFault (checkWord cmd r) cmd r := by
  rcases replyWord_cases_of_checkWord cmd r with ⟨-, -, ha⟩ | ⟨-, hc, ha⟩ | ⟨-, -, hok⟩
  · rw [ha] at h
    exact absurd h nofun
  · exact ⟨hc, ha⟩
  · rw [hok] at h
    exact absurd h nofun

/-! ### The registers after a word that is performed -/

/-- EXTEND leaves a run in progress (42_policy.md R75). -/
theorem extendRegs_started (r : Regs) : Started (extendRegs Config.hw r) := by
  simp only [Started, extendRegs, nextFsm]
  split
  · simp
  · split <;> simp

/-- Outside S_FAULTED a word answered RS_OK records no fault. -/
theorem WordEffect.fsm_ne_faulted {cmd : Word} {r : Regs} {a : Regs × Response} (ha : WordEffect cmd r a)
    (hf : r.fsm ≠ .sFaulted) (hok : a.2.status = .rsOk) : a.1.fsm ≠ .sFaulted := by
  cases ha with
  | unchanged hu => rwa [hu]
  | fault _ _ => exact absurd hok nofun
  | start _ _ => exact nofun
  | account _ _ _ => rwa [(accountBody_fsm_w _ _ _).1]
  | extend _ _ => exact (extendRegs_started r).2

/-- In S_FAULTED no word but START writes a register (60_exceptions.md R102, R104). -/
theorem WordEffect.regs_of_faulted {cmd : Word} {r : Regs} {a : Regs × Response} (ha : WordEffect cmd r a)
    (hf : r.fsm = .sFaulted) (hcmd : ¬ IsStartWord cmd) : a.1 = r := by
  cases ha with
  | unchanged hu => exact hu
  | fault _ hn => exact absurd hf hn
  | start _ hs => exact absurd hs hcmd
  | account hs _ _ => exact absurd hf hs.2
  | extend hs _ => exact absurd hf hs.2

/-- A word with START's opcode and no cause is one of the two START words. -/
theorem isStartWord_of_no_cause {cmd : Word} {r : Regs} (hop : opNumber cmd = 1) (hc : checkWord cmd r = .fNone) :
    IsStartWord cmd := by
  have hd := decode_of_opField (op := .start) ((opField_eq_iff cmd _).2 hop)
  rw [← check_eq_checkWord hd] at hc
  exact isStartWord_of_decode hd ((check_eq_none_iff _ _ _).1 hc).1

/-- The mode a START word names is the one it starts (40_control.md R64). -/
theorem replyWord_regs_of_isStartWord {cmd : Word} (h : IsStartWord cmd) (r : Regs) :
    (replyWord cmd r).1 = beginRun Config.hw (if cmd = 0x10000001 then .monitorMode else .resetMode) := by
  rcases h with rfl | rfl
  · exact congrArg Prod.fst (replyWord_startWord .resetMode r)
  · exact congrArg Prod.fst (replyWord_startWord .monitorMode r)

/-! ### Steps -/

/-- A step that leaves S_FAULTED is hardware reset or accepts a START word. -/
theorem step_cases_of_leaves_faulted {s t : State} (hf : s.regs.fsm = .sFaulted) (h : step s = .next t)
    (hne : t.regs.fsm ≠ .sFaulted) :
    ∃ inp rest, s.inputs = inp :: rest ∧
      ((inp.rst = true ∧ t.regs = State.reset.regs) ∨
        (inp.rst = false ∧ inp.cmdValid = true ∧ IsStartWord inp.cmdWord ∧ t.regs = (replyWord inp.cmdWord s.regs).1)) := by
  rcases step_cases h with
    ⟨-, rfl⟩ | ⟨inp, rest, hi, hr, rfl⟩ | ⟨inp, rest, hi, hr, rfl | rfl⟩ | ⟨inp, rest, hi, hr, hv, -, rfl⟩
  · exact absurd hf hne
  · exact ⟨inp, rest, hi, .inl ⟨hr, rfl⟩⟩
  · exact absurd hf hne
  · exact absurd hf hne
  · refine ⟨inp, rest, hi, .inr ⟨hr, hv, ?_, rfl⟩⟩
    by_contra hcmd
    exact hne ((replyWord_wordEffect _ _).fsm_of_faulted hf hcmd)

/-- An edge that accepts a word runs it, the ports' input consumed. -/
theorem step_of_accepts_eq_runWord {s : State} {cmd : Word} {rest : List PortInput} (h : Accepts s cmd rest) :
    step s = runWord cmd { s with inputs := rest } := by
  rw [step_of_accepts h, runWord_eq]

/-- An edge without `rst` and without a command writes no register. -/
theorem edge_of_no_command {inp : PortInput} (hr : inp.rst = false) (hv : inp.cmdValid = false) (s : State) :
    ∃ t, edge inp s = .next t ∧ t.regs = s.regs ∧ t.inputs = s.inputs ∧ t.resetSeen = s.resetSeen := by
  cases hs : s.resetSeen with
  | false => exact ⟨s, by simp [edge, hr, hv, hs], rfl, rfl, hs⟩
  | true =>
    cases hq : s.resp with
    | none => exact ⟨s, by simp [edge, hr, hv, hs, hq], rfl, rfl, hs⟩
    | some q =>
      cases hready : inp.respReady with
      | false => exact ⟨s, by simp [edge, hr, hs, hq, hready], rfl, rfl, hs⟩
      | true => exact ⟨takeResponse s, by simp [edge, hr, hs, hq, hready], rfl, rfl, hs⟩

end Sys2Proof.Machine

namespace Sys2Proof.Proofs

open Sys2Proof.Machine Sys2Proof.Safety

/-- Settles O9, by Check of the decoded command, whose tests are the raw word's. -/
theorem checkOnRawWords : Obligations.CheckOnRawWords := by
  intro cmd s hf
  have hp : s.regs.fsm = .sFaulted → CheckedWhenFaulted cmd := fun h => absurd h hf
  refine ⟨runWord_of_cause hp, fun hc => ?_⟩
  have hok := replyWord_status_of_no_cause hp hc
  exact ⟨_, _, runWord_eq cmd s, hok, (replyWord_wordEffect cmd s.regs).fsm_ne_faulted hf hok⟩

/-- Settles O12: a later fault is taken by a word that S_FAULTED checks, and writes nothing. -/
theorem firstFaultKept : Obligations.FirstFaultKept := by
  intro cmd s hf hop hc
  rw [runWord_of_cause (fun _ => hop) hc, faulted, if_pos hf]

/-- Settles O10, by fault entry outside and inside S_FAULTED, and the three ways a word ends, one of which answers RS_FAULT. -/
theorem faultEntry : Obligations.FaultEntry := by
  refine ⟨fun cmd s hc => ⟨fun hf => ?_, fun hf hop => firstFaultKept cmd s hf hop hc⟩, fun cmd s t q hrun hq hfault => ?_⟩
  · refine ⟨_, runWord_of_cause (fun h => absurd h hf) hc, ?_⟩
    rw [faulted, if_neg hf]
    exact ⟨rfl, rfl⟩
  · obtain ⟨rfl, rfl⟩ := eq_answer_of_runWord hrun hq
    obtain ⟨hc, ha⟩ := replyWord_of_rsFault hfault
    rw [answer_regs, ha]
    exact ⟨hc, rfl, takeFault_regs_of_not_faulted, takeFault_regs_of_faulted⟩

/-- Settles O11: an opcode that S_FAULTED checks ends by its cause, and of those only START writes a register. -/
theorem rejectionWhenFaulted : Obligations.RejectionWhenFaulted := by
  refine fun cmd s hf => ⟨fun h0 h1 h5 => ?_, fun hop => ⟨runWord_of_cause fun _ => hop, fun hc => ?_⟩⟩
  · exact runWord_of_not_checked hf (by simp [CheckedWhenFaulted, h0, h1, h5])
  · refine ⟨_, _, runWord_eq cmd s, replyWord_status_of_no_cause (fun _ => hop) hc, fun h1 => ?_, fun h1 => ?_⟩
    · rw [replyWord_regs_of_isStartWord (isStartWord_of_no_cause h1 hc)]
      exact ⟨rfl, rfl, rfl⟩
    · refine (replyWord_wordEffect cmd s.regs).regs_of_faulted hf ?_
      rintro (rfl | rfl) <;> exact h1 rfl

/-- Settles O13, by the cases of a step and the stream-start values. -/
theorem onlyStartOrResetLeavesFaulted : Obligations.OnlyStartOrResetLeavesFaulted := by
  intro s t hf hst hne
  obtain ⟨inp, rest, hi, hreset | ⟨hr, hv, hcmd, ht⟩⟩ := step_cases_of_leaves_faulted hf hst hne
  · exact ⟨inp, rest, hi, .inl hreset⟩
  · exact ⟨inp, rest, hi, .inr ⟨hr, hv, hcmd, ht.trans (replyWord_regs_of_isStartWord hcmd s.regs)⟩⟩

/-- Settles O8: the edge runs the word, and a reserved opcode is F_ILLEGAL_OP's, or none that S_FAULTED checks. -/
theorem stepIllegalOpcode : Obligations.StepIllegalOpcode := by
  intro s cmd rest hacc hop
  rw [step_of_accepts_eq_runWord hacc]
  exact ⟨fun hf => runWord_of_six_le hop hf, fun hf => runWord_of_not_checked hf (by unfold CheckedWhenFaulted; omega)⟩

/-- Settles O17, by the edge at which nothing is offered. -/
theorem stateRetained : Obligations.StateRetained := by
  refine fun s => ⟨fun hi => by rw [step, nextEdge, hi], fun inp rest hi hr hv => ?_⟩
  obtain ⟨t, ht, hregs⟩ := edge_of_no_command hr hv { s with inputs := rest }
  exact ⟨t, by rw [step, nextEdge, hi, ← ht], hregs⟩

end Sys2Proof.Proofs
end

section
/-! PROOFS. The canonical host sequences never fault (60_exceptions.md R99): what a run needs so that the codes still to come can be
accounted, and that each command of the hosts keeps it. -/
namespace Sys2Proof.Machine

open Sys2Proof.Safety

/-! ### Commands answered RS_OK -/

/-- Every command of the list, issued from the registers `r`, is answered RS_OK. -/
def AllOk (cmds : List Word) (r : Regs) : Prop := ∀ q ∈ (replies cmds r).1, q.status = .rsOk

@[simp] theorem allOk_nil (r : Regs) : AllOk [] r := List.forall_mem_nil _

@[simp] theorem allOk_cons (cmd : Word) (cmds : List Word) (r : Regs) :
    AllOk (cmd :: cmds) r ↔ (replyWord cmd r).2.status = .rsOk ∧ AllOk cmds (replyWord cmd r).1 :=
  List.forall_mem_cons

/-- Such a list is safe from every state with these registers. -/
theorem safeCommands_of_allOk {cmds : List Word} {s : State} (h : AllOk cmds s.regs) : SafeCommands cmds s := by
  obtain ⟨t, ht, -⟩ := issueAll_eq cmds s
  exact ⟨_, t, ht, replies_length cmds s.regs, h⟩

/-- Leaving out the PEEKs, which write nothing, leaves the other commands' answers (42_policy.md R77). -/
theorem AllOk.filter_peekWord {cmds : List Word} {r : Regs} (h : AllOk cmds r) (hf : r.fsm ≠ .sIdle) :
    AllOk (cmds.filter fun cmd => cmd ≠ peekWord) r := by
  induction cmds generalizing r with
  | nil => exact h
  | cons cmd cmds ih =>
    obtain ⟨hok, hrest⟩ := (allOk_cons cmd cmds r).1 h
    by_cases hc : cmd = peekWord
    · rw [hc, replyWord_peekWord_regs hf] at hrest
      simpa [hc] using ih hrest hf
    · simpa [hc, hok] using ih hrest ((replyWord_wordEffect cmd r).fsm_ne_idle hf)

/-! ### Room for the codes to come -/

/-- A run whose totals have room for one ACCOUNT of each of `ns`, at 16 bits each at most. -/
structure RoomFor (ns : List Len) (r : Regs) : Prop where
  inv : RegsInv r
  started : Started r
  nonzero : ∀ n ∈ ns, n ≠ 0
  emit : r.emitBits.toNat + 16 * ns.length < 2 ^ 64
  rep : r.repBits.toNat + 8 * (ns.map BitVec.toNat).sum < 2 ^ 64

/-- A run begins with room for every list that R99 admits: at 16 bits each, fewer than 2^60 codes are fewer than 2^64 bits. -/
theorem roomFor_beginRun (m : Mode) {ns : List Len} (hlen : ns.length < 2 ^ 60) (hne : ∀ n ∈ ns, n ≠ 0)
    (hsum : 8 * (ns.map BitVec.toNat).sum < 2 ^ 64) : RoomFor ns (beginRun Config.hw m) where
  inv := regsInv_beginRun m
  started := ⟨nofun, nofun⟩
  nonzero := hne
  emit := by
    change 0 + 16 * ns.length < 2 ^ 64
    omega
  rep := by
    change 0 + 8 * (ns.map BitVec.toNat).sum < 2 ^ 64
    omega

/-- An ACCOUNT whose sums fit adds at most W and 8 times its length to the totals: in Reset mode it adds nothing. -/
theorem accountBody_totals_le {r : Regs} {n : Len} (ho : totalsOverflow Config.hw r n = false) :
    (accountBody Config.hw n r).1.emitBits.toNat ≤ r.emitBits.toNat + r.w.toNat ∧
    (accountBody Config.hw n r).1.repBits.toNat ≤ r.repBits.toNat + 8 * n.toNat := by
  cases hm : r.mode with
  | resetMode =>
    rw [accountBody_of_resetMode hm]
    exact ⟨Nat.le_add_right _ _, Nat.le_add_right _ _⟩
  | monitorMode =>
    obtain ⟨hemit, hrep⟩ := totals_fit hm ho
    rw [accountBody_of_monitorMode hm]
    exact ⟨(emitBits_add_toNat hemit).le, (repBits_add_toNat hrep).le⟩

/-- With room for it an ACCOUNT is performed, and room is left for the others. -/
theorem RoomFor.account {n : Len} {ns : List Len} {r : Regs} (h : RoomFor (n :: ns) r) :
    (replyWord (accountWord n) r).2.status = .rsOk ∧ RoomFor ns (replyWord (accountWord n) r).1 := by
  obtain ⟨hinv, hs, hne, hemit, hrep⟩ := h
  obtain ⟨hn, hns⟩ := List.forall_mem_cons.1 hne
  obtain ⟨-, -, hw, -⟩ := hinv.range
  rw [List.length_cons] at hemit
  rw [List.map_cons, List.sum_cons] at hrep
  have ho : totalsOverflow Config.hw r n = false := by
    rw [← Bool.not_eq_true, totalsOverflow_iff]
    rintro ⟨-, h | h⟩ <;> omega
  have hreply : replyWord (accountWord n) r = accountBody Config.hw n r :=
    (replyWord_encode _ r).trans (reply_of_started hs (account_wellFormed hn) ho)
  obtain ⟨hemit', hrep'⟩ := accountBody_totals_le ho
  rw [hreply]
  refine ⟨effect_status (.account n) r, hinv.accountBody hs hn ho, ?_, hns, by omega, by omega⟩
  rwa [Started, (accountBody_fsm_w _ _ _).1]

/-- EXTEND raises no total: it leaves both or clears both (42_policy.md R74). -/
theorem extendBody_totals_le (r : Regs) :
    (extendBody Config.hw r).1.emitBits.toNat ≤ r.emitBits.toNat ∧
    (extendBody Config.hw r).1.repBits.toNat ≤ r.repBits.toNat := by
  rcases extendRegs_totals r with ⟨he, hr⟩ | ⟨-, he, hr⟩ <;> rw [extendBody, he, hr]
  · exact ⟨le_rfl, le_rfl⟩
  · exact ⟨Nat.zero_le _, Nat.zero_le _⟩

/-- An EXTEND is performed and keeps the room. -/
theorem RoomFor.extend {ns : List Len} {r : Regs} (h : RoomFor ns r) :
    (replyWord extendWord r).2.status = .rsOk ∧ RoomFor ns (replyWord extendWord r).1 := by
  obtain ⟨hinv, hs, hne, hemit, hrep⟩ := h
  obtain ⟨hemit', hrep'⟩ := extendBody_totals_le r
  rw [replyWord_extend hs]
  exact ⟨rfl, hinv.extendRegs hs, extendRegs_started r, hne, by omega, by omega⟩

/-- A PEEK is performed and writes nothing. -/
theorem replyWord_peekWord {r : Regs} (hs : Started r) :
    (replyWord peekWord r).2.status = .rsOk ∧ (replyWord peekWord r).1 = r := by
  rw [peekWord, replyWord_encode, reply_peek hs]
  exact ⟨rfl, rfl⟩

/-! ### The hosts' commands (45_host_sequences.md R88, R90) -/

/-- The decoder's commands after the first code, by the codes that follow. -/
theorem RoomFor.decoderSteps {ns : List Len} {r : Regs} (h : RoomFor ns r) : AllOk (decoderSteps ns) r := by
  induction ns generalizing r with
  | nil => simp [Machine.decoderSteps, replyWord_peekWord h.started]
  | cons n ns ih =>
    obtain ⟨hextend, h'⟩ := h.extend
    obtain ⟨haccount, h''⟩ := h'.account
    simp [Machine.decoderSteps, replyWord_peekWord h.started, hextend, haccount, ih h'']

/-- The decoder's commands after START. -/
theorem RoomFor.decoderCommands_tail (m : Mode) {ns : List Len} {r : Regs} (h : RoomFor ns r) :
    AllOk (decoderCommands m ns).tail r := by
  cases ns with
  | nil => exact allOk_nil r
  | cons n ns =>
    obtain ⟨haccount, h'⟩ := h.account
    exact (allOk_cons _ _ r).2 ⟨haccount, h'.decoderSteps⟩

/-- START is answered RS_OK in every state, and what follows it meets the stream-start values. -/
theorem allOk_startWord_cons {m : Mode} {cmds : List Word} (h : AllOk cmds (beginRun Config.hw m)) (r : Regs) :
    AllOk (startWord m :: cmds) r := by
  rw [allOk_cons, replyWord_startWord]
  exact ⟨rfl, h⟩

end Sys2Proof.Machine

namespace Sys2Proof.Proofs

open Sys2Proof.Machine Sys2Proof.Safety

/-- Settles O48: after START there is room for every code, and the encoder's commands are the decoder's without its PEEKs. -/
theorem canonicalSequencesNeverFault : Obligations.CanonicalSequencesNeverFault := by
  intro m ns s hlen hne hsum
  have hok := (roomFor_beginRun m hlen hne hsum).decoderCommands_tail m
  refine ⟨safeCommands_of_allOk ?_, safeCommands_of_allOk ?_⟩
  · rw [← decoderCommands_filter, decoderCommands_eq_cons, List.filter_cons_of_pos (by simp [startWord_ne_peekWord])]
    exact allOk_startWord_cons (hok.filter_peekWord nofun) s.regs
  · rw [decoderCommands_eq_cons]
    exact allOk_startWord_cons hok s.regs

end Sys2Proof.Proofs
end

section
/-! PROOFS. Hardware reset, and the handshake around one command (70_reset_and_hazards.md R114, R116, R124, R128): what the edge with
`rst` does, what an edge before the first `rst` does, and the edges that accept an offered word and take its response. -/
namespace Sys2Proof.Machine

open Sys2Proof.Safety

/-! ### Reset -/

/-- An edge with `rst` is hardware reset, whatever else the ports hold (log 14). -/
theorem step_of_rst {s : State} {inp : PortInput} {rest : List PortInput} (hi : s.inputs = inp :: rest) (hr : inp.rst = true) :
    step s = .next (hardwareReset Config.hw { s with inputs := rest }) := by
  rw [step, nextEdge, hi]
  exact if_pos hr

/-- READ STATUS with the registers at their reset values. -/
theorem exec_read_status_of_reset {s : State} (h : s.regs = State.reset.regs) :
    exec (.read 0 0) s = .next { s with resp := some (okResponse 9 0x00090000) } := by
  have hstatus : readReg Config.hw State.reset.regs .status = 0x00090000 := by decide
  rw [exec_eq, reply_read (x := .status) (by decide) rfl, h, hstatus]
  rfl

/-- Before the first `rst` an offered command is refused, and any other edge without `rst` only consumes its input (log 4). -/
theorem step_of_not_resetSeen {s : State} {inp : PortInput} {rest : List PortInput} (hs : s.resetSeen = false)
    (hi : s.inputs = inp :: rest) (hr : inp.rst = false) :
    step s = if inp.cmdValid then .refused .beforeFirstReset else .next { s with inputs := rest } := by
  simp [step, nextEdge, hi, edge, hr, hs]

/-! ### One command and its response -/

/-- A ready block accepts the word that `offer` drives. -/
theorem accepts_offer (cmd : Word) (rest : List PortInput) {s : State} (hs : s.resetSeen = true) (hq : s.resp = none) :
    Accepts { s with inputs := offer cmd :: rest } cmd rest :=
  ⟨hs, hq, offer cmd, rfl, rfl, rfl, rfl⟩

/-- The edge that takes a pending response. -/
theorem step_of_respReady {s : State} {q : Response} {inp : PortInput} {rest : List PortInput} (hq : s.resp = some q)
    (hi : s.inputs = inp :: rest) (hr : inp.rst = false) (hs : s.resetSeen = true) (hready : inp.respReady = true) :
    step s = .next (takeResponse { s with inputs := rest }) := by
  rw [step_of_pending hq hi hr hs, if_pos hready]

/-- A run goes on from the state its first step reaches. -/
theorem core_run_succ {s t : State} (h : step s = .next t) (k : Nat) : core.run (k + 1) s = core.run k t := by
  have hcore : core.step s = .next t := h
  simp only [Host.Core.run, hcore]

end Sys2Proof.Machine

namespace Sys2Proof.Proofs

open Sys2Proof.Machine Sys2Proof.Safety

/-- Settles O14, by the edge with `rst` and the reset value of STATUS. -/
theorem hardwareReset : Obligations.HardwareReset := by
  intro s inp rest hi hr
  have hstep := step_of_rst hi hr
  refine ⟨hstep, rfl, rfl, fun t ht => ?_⟩
  rw [hstep] at ht
  cases ht
  exact ⟨rfl, rfl, exec_read_status_of_reset rfl⟩

/-- Settles O18: every accepted word answers at its edge, and the edge that takes the response leaves the block ready. -/
theorem everyCommandCompletes : Obligations.EveryCommandCompletes := by
  refine ⟨fun s cmd rest hacc => ⟨_, _, step_of_accepts hacc, rfl, rfl⟩, fun s inp rest hs hne hi hr hready => ?_⟩
  obtain ⟨q, hq⟩ := Option.ne_none_iff_exists'.1 hne
  exact ⟨_, step_of_respReady hq hi hr hs hready, by simp [cmdReady, hs], rfl⟩

/-- Settles O19, by what an edge does before the first `rst`. -/
theorem beforeFirstReset : Obligations.BeforeFirstReset := by
  intro s inp rest hs hi hr
  have hstep := step_of_not_resetSeen hs hi hr
  exact ⟨fun hv => by rw [hstep, if_pos hv], fun hv => by rw [hstep, if_neg (ne_true_of_eq_false hv)]⟩

/-- Settles O20: the first step accepts the offered word and answers it, the second takes the answer. -/
theorem issueIsTwoSteps : Obligations.IssueIsTwoSteps := by
  intro cmd s hs hq
  have haccept := step_of_accepts (accepts_offer cmd (take :: s.inputs) hs hq)
  have htake := step_of_respReady (answer_resp { s with inputs := take :: s.inputs } (replyWord cmd s.regs)) rfl rfl hs rfl
  refine ⟨_, _, issue_eq cmd s, rfl, rfl, ?_⟩
  exact (core_run_succ haccept 1).trans (core_run_succ htake 0)

end Sys2Proof.Proofs
end

section
/-! PROOFS. The sample words of the spec's programs and vectors (95_test_vectors.md). -/
namespace Sys2Proof.Proofs

open Sys2Proof.Machine Sys2Proof.Safety

/-- Settles O5: eight of the words are encodings of the commands the spec names for them, and the ninth has a reserved opcode. -/
theorem sampleWords : Obligations.SampleWords :=
  ⟨decode_encode (.nop 0), decode_encode (.start 0 1), decode_encode (.account 100), decode_encode (.account 268435455),
    decode_encode (.extend 0), decode_encode (.peek 0), decode_encode (.read 0 11), decode_encode (.read 1 0),
    decode_of_six_le (by decide)⟩

end Sys2Proof.Proofs
end
